-- ==== Sys2Proof/Word.lean ====
section
/-!
DEFINITION. Words of the register interface, the three lanes of a vector operation, and the names
the three MVMVA selector fields choose among (00_scope.md R7, R14; 45_mvmva_reserved.md R211).
-/

namespace Sys2Proof

/-- The 32-bit word of the interface and of an instruction (00_scope.md R7 `XLEN`). -/
abbrev Word := BitVec 32
/-- A 16-bit stored field (00_scope.md R7, vector lane width). -/
abbrev Half := BitVec 16
/-- A colour byte (10_state.md R24). -/
abbrev Byte := BitVec 8
/-- The 64 words of a `DUMP` or a `RESTORE`, in index order (46_register_access.md R245). -/
abbrev DumpWords := Vector Word 64

/-- Lane `i` in 1..3 of a vector operation; lane `i` writes `MACi` and `IRi` (00_scope.md R14). -/
inductive Lane
  | l1
  | l2
  | l3
deriving DecidableEq, Repr

/-- Three components, numbered 1 to 3 as the spec numbers lanes and matrix columns. -/
@[ext]
structure Triple (α : Type) where
  l1 : α
  l2 : α
  l3 : α
deriving DecidableEq, Repr

/-- Component `i`. -/
def Triple.get {α : Type} (t : Triple α) : Lane → α
  | .l1 => t.l1
  | .l2 => t.l2
  | .l3 => t.l3

/-- Replace component `i`. -/
def Triple.set {α : Type} (t : Triple α) (l : Lane) (a : α) : Triple α :=
  match l with
  | .l1 => { t with l1 := a }
  | .l2 => { t with l2 := a }
  | .l3 => { t with l3 := a }

/-- A 3×3 matrix of signed 16-bit elements, by rows: `m.l1.l2` is row 1, column 2 (10_state.md R35). -/
abbrev Mat3 := Triple (Triple Half)

/-- A packed colour: red, green, blue and code bytes (10_state.md R24, R29). -/
@[ext]
structure Colour where
  r : Byte
  g : Byte
  b : Byte
  code : Byte
deriving DecidableEq, Repr

/-- A screen coordinate pair of the SXY FIFO (10_state.md R27). -/
@[ext]
structure ScreenXY where
  x : Half
  y : Half
deriving DecidableEq, Repr

/-- The matrix operand of MVMVA, field `mx` = 0, 1, 2, 3 in this order (R211). -/
inductive MatrixSel
  | rt
  | llm
  | lcm
  | reserved
deriving DecidableEq, Repr

/-- The vector operand of MVMVA, field `v` = 0, 1, 2, 3 in this order (R211). -/
inductive VectorSel
  | v0
  | v1
  | v2
  | ir
deriving DecidableEq, Repr

/-- The translation operand of MVMVA, field `cv` = 0, 1, 2, 3 in this order (R211). -/
inductive TransSel
  | tr
  | bk
  | fc
  | none
deriving DecidableEq, Repr

end Sys2Proof
end

