-- ==== Sys2Proof/Syntax.lean ====
section
/-!
DEFINITION. The instructions, one constructor per row of spec/opcode_table.json, in the order of
the function codes (30_encoding.md R94, R96). A constructor's arguments are the fields its handler
honours (the column "uses" of R94); the bits R93 says are ignored are no part of it.
-/

namespace Sys2Proof

/-- An instruction: a function code and the fields its handler honours (30_encoding.md R92, R94).
`sf` selects the shift 0 or 12, `lm` the lower bound of IR1..IR3. -/
inductive Instr
  /-- Reserved function code 0x00 (R96, R215). -/
  | reserved00
  /-- RTPS, `fn` 0x01: rotate, translate and perspective-transform one vertex (R150). -/
  | rtps (sf lm : Bool)
  /-- Reserved function code 0x02 (R96, R215). -/
  | reserved02
  /-- Reserved function code 0x03 (R96, R215). -/
  | reserved03
  /-- Reserved function code 0x04 (R96, R215). -/
  | reserved04
  /-- Reserved function code 0x05 (R96, R215). -/
  | reserved05
  /-- NCLIP, `fn` 0x06: normal clipping (R200). -/
  | nclip
  /-- Reserved function code 0x07 (R96, R215). -/
  | reserved07
  /-- Reserved function code 0x08 (R96, R215). -/
  | reserved08
  /-- Reserved function code 0x09 (R96, R215). -/
  | reserved09
  /-- Reserved function code 0x0A (R96, R215). -/
  | reserved0A
  /-- Reserved function code 0x0B (R96, R215). -/
  | reserved0B
  /-- OP, `fn` 0x0C: outer product (R204). -/
  | op (sf lm : Bool)
  /-- Reserved function code 0x0D (R96, R215). -/
  | reserved0D
  /-- Reserved function code 0x0E (R96, R215). -/
  | reserved0E
  /-- Reserved function code 0x0F (R96, R215). -/
  | reserved0F
  /-- DPCS, `fn` 0x10: depth cue single (R180). -/
  | dpcs (sf lm : Bool)
  /-- INTPL, `fn` 0x11: interpolate a vector toward the far colour (R183). -/
  | intpl (sf lm : Bool)
  /-- MVMVA, `fn` 0x12: multiply vector by matrix and add vector (R210). -/
  | mvmva (sf : Bool) (mx : MatrixSel) (v : VectorSel) (cv : TransSel) (lm : Bool)
  /-- NCDS, `fn` 0x13: normal colour depth cue, single (R164). -/
  | ncds (sf lm : Bool)
  /-- CDP, `fn` 0x14: colour depth cue (R167). -/
  | cdp (sf lm : Bool)
  /-- Reserved function code 0x15 (R96, R215). -/
  | reserved15
  /-- NCDT, `fn` 0x16: normal colour depth cue, triple (R165). -/
  | ncdt (sf lm : Bool)
  /-- Reserved function code 0x17 (R96, R215). -/
  | reserved17
  /-- Reserved function code 0x18 (R96, R215). -/
  | reserved18
  /-- Reserved function code 0x19 (R96, R215). -/
  | reserved19
  /-- Reserved function code 0x1A (R96, R215). -/
  | reserved1A
  /-- NCCS, `fn` 0x1B: normal colour colour, single (R162). -/
  | nccs (sf lm : Bool)
  /-- CC, `fn` 0x1C: colour colour (R166). -/
  | cc (sf lm : Bool)
  /-- Reserved function code 0x1D (R96, R215). -/
  | reserved1D
  /-- NCS, `fn` 0x1E: normal colour, single (R160). -/
  | ncs (sf lm : Bool)
  /-- Reserved function code 0x1F (R96, R215). -/
  | reserved1F
  /-- NCT, `fn` 0x20: normal colour, triple (R161). -/
  | nct (sf lm : Bool)
  /-- Reserved function code 0x21 (R96, R215). -/
  | reserved21
  /-- Reserved function code 0x22 (R96, R215). -/
  | reserved22
  /-- Reserved function code 0x23 (R96, R215). -/
  | reserved23
  /-- Reserved function code 0x24 (R96, R215). -/
  | reserved24
  /-- Reserved function code 0x25 (R96, R215). -/
  | reserved25
  /-- Reserved function code 0x26 (R96, R215). -/
  | reserved26
  /-- Reserved function code 0x27 (R96, R215). -/
  | reserved27
  /-- SQR, `fn` 0x28: square of the IR vector (R203). -/
  | sqr (sf lm : Bool)
  /-- DCPL, `fn` 0x29: depth cue of a lit colour (R182). -/
  | dcpl (sf lm : Bool)
  /-- DPCT, `fn` 0x2A: depth cue triple (R181). -/
  | dpct (sf lm : Bool)
  /-- Reserved function code 0x2B (R96, R215). -/
  | reserved2B
  /-- Reserved function code 0x2C (R96, R215). -/
  | reserved2C
  /-- AVSZ3, `fn` 0x2D: average of three Z values (R201). -/
  | avsz3
  /-- AVSZ4, `fn` 0x2E: average of four Z values (R202). -/
  | avsz4
  /-- Reserved function code 0x2F (R96, R215). -/
  | reserved2F
  /-- RTPT, `fn` 0x30: the same for three vertices (R151). -/
  | rtpt (sf lm : Bool)
  /-- Reserved function code 0x31 (R96, R215). -/
  | reserved31
  /-- Reserved function code 0x32 (R96, R215). -/
  | reserved32
  /-- Reserved function code 0x33 (R96, R215). -/
  | reserved33
  /-- Reserved function code 0x34 (R96, R215). -/
  | reserved34
  /-- Reserved function code 0x35 (R96, R215). -/
  | reserved35
  /-- Reserved function code 0x36 (R96, R215). -/
  | reserved36
  /-- Reserved function code 0x37 (R96, R215). -/
  | reserved37
  /-- Reserved function code 0x38 (R96, R215). -/
  | reserved38
  /-- Reserved function code 0x39 (R96, R215). -/
  | reserved39
  /-- Reserved function code 0x3A (R96, R215). -/
  | reserved3A
  /-- Reserved function code 0x3B (R96, R215). -/
  | reserved3B
  /-- Reserved function code 0x3C (R96, R215). -/
  | reserved3C
  /-- GPF, `fn` 0x3D: general-purpose interpolation (R184). -/
  | gpf (sf lm : Bool)
  /-- GPL, `fn` 0x3E: general-purpose interpolation with base (R185). -/
  | gpl (sf lm : Bool)
  /-- NCCT, `fn` 0x3F: normal colour colour, triple (R163). -/
  | ncct (sf lm : Bool)
deriving DecidableEq, Repr

end Sys2Proof
end

