-- ==== Sys2Proof/Decode.lean ====
section
/-!
DEFINITION. The dispatcher's decode (30_encoding.md R90 to R97) and, after it, the encoder.
`decodeWord` reads every 32-bit word as exactly one instruction: no encoding is illegal (R95).
`decode` reads the next word of a list of words and rejects an empty list by name; the interface
carries whole words (20_memory.md R75), so no byte order enters.
-/

namespace Sys2Proof

/-- Bit 19 (R92): shift select. -/
def sfField (w : Word) : Bool := w.getLsbD 19
/-- Bit 10 (R92): lower bound of IR1..IR3. -/
def lmField (w : Word) : Bool := w.getLsbD 10
/-- Bits 5:0 (R92): the function code. -/
def fnField (w : Word) : Fin 64 := (w.extractLsb' 0 6).toFin

/-- The two-bit value that names a matrix (R211). -/
def MatrixSel.ofBits (b : BitVec 2) : MatrixSel :=
  match b.toFin with
  | 0 => .rt
  | 1 => .llm
  | 2 => .lcm
  | 3 => .reserved

/-- The two-bit value that names a vector (R211). -/
def VectorSel.ofBits (b : BitVec 2) : VectorSel :=
  match b.toFin with
  | 0 => .v0
  | 1 => .v1
  | 2 => .v2
  | 3 => .ir

/-- The two-bit value that names a translation (R211). -/
def TransSel.ofBits (b : BitVec 2) : TransSel :=
  match b.toFin with
  | 0 => .tr
  | 1 => .bk
  | 2 => .fc
  | 3 => .none

/-- Bits 18:17 (R92): MVMVA matrix select. -/
def mxField (w : Word) : MatrixSel := .ofBits (w.extractLsb' 17 2)
/-- Bits 16:15 (R92): MVMVA vector select. -/
def vField (w : Word) : VectorSel := .ofBits (w.extractLsb' 15 2)
/-- Bits 14:13 (R92): MVMVA translation select. -/
def cvField (w : Word) : TransSel := .ofBits (w.extractLsb' 13 2)

/-- The opcode map in code order 0x00 to 0x3F, each row with the fields of the word (R94, R96). -/
def codeTable (sf : Bool) (mx : MatrixSel) (v : VectorSel) (cv : TransSel) (lm : Bool) :
    List Instr :=
  [[.reserved00, .rtps sf lm, .reserved02, .reserved03, .reserved04, .reserved05, .nclip, .reserved07],
    [.reserved08, .reserved09, .reserved0A, .reserved0B, .op sf lm, .reserved0D, .reserved0E, .reserved0F],
    [.dpcs sf lm, .intpl sf lm, .mvmva sf mx v cv lm, .ncds sf lm, .cdp sf lm, .reserved15, .ncdt sf lm, .reserved17],
    [.reserved18, .reserved19, .reserved1A, .nccs sf lm, .cc sf lm, .reserved1D, .ncs sf lm, .reserved1F],
    [.nct sf lm, .reserved21, .reserved22, .reserved23, .reserved24, .reserved25, .reserved26, .reserved27],
    [.sqr sf lm, .dcpl sf lm, .dpct sf lm, .reserved2B, .reserved2C, .avsz3, .avsz4, .reserved2F],
    [.rtpt sf lm, .reserved31, .reserved32, .reserved33, .reserved34, .reserved35, .reserved36, .reserved37],
    [.reserved38, .reserved39, .reserved3A, .reserved3B, .reserved3C, .gpf sf lm, .gpl sf lm, .ncct sf lm]].flatten

/-- The instruction of function code `fn` with the fields of the word (R94, R96). -/
def instrOfCode (fn : Fin 64) (sf : Bool) (mx : MatrixSel) (v : VectorSel) (cv : TransSel)
    (lm : Bool) : Instr :=
  (codeTable sf mx v cv lm)[fn.val]'(by simp [codeTable])

/-- The instruction a 32-bit word selects (R90): total, no word is refused (R95). -/
def decodeWord (w : Word) : Instr :=
  instrOfCode (fnField w) (sfField w) (mxField w) (vField w) (cvField w) (lmField w)

/-- Why no instruction can be read from a list of words. -/
inductive DecodeRefusal
  /-- The list holds no word. -/
  | noWord
deriving DecidableEq, Repr

/-- Read one instruction from the front of a list of words. -/
def decode : List Word → Except DecodeRefusal (Instr × List Word)
  | [] => .error .noWord
  | w :: rest => .ok (decodeWord w, rest)

/-- The host's question: the instruction the decoder reads from the table's bits `w` (bit 0 the
least significant bit of the word); the bits above `nbits` are 0. -/
def decodeTableWord (nbits w : Nat) : Option Instr :=
  match decode [BitVec.ofNat 32 (w % 2 ^ nbits)] with
  | .ok (i, _) => some i
  | .error _ => none

/-! The encoder, from the same field table. -/

/-- The value of field `mx` (R211). -/
def MatrixSel.bits : MatrixSel → BitVec 2
  | .rt => 0
  | .llm => 1
  | .lcm => 2
  | .reserved => 3

/-- The value of field `v` (R211). -/
def VectorSel.bits : VectorSel → BitVec 2
  | .v0 => 0
  | .v1 => 1
  | .v2 => 2
  | .ir => 3

/-- The value of field `cv` (R211). -/
def TransSel.bits : TransSel → BitVec 2
  | .tr => 0
  | .bk => 1
  | .fc => 2
  | .none => 3

/-- The minimal word of R100: the honoured fields in the places of R92, every ignored bit 0. -/
def fieldsWord (sf : Bool) (mx : MatrixSel) (v : VectorSel) (cv : TransSel) (lm : Bool)
    (fn : BitVec 6) : Word :=
  0#12 ++ BitVec.ofBool sf ++ mx.bits ++ v.bits ++ cv.bits ++ 0#2 ++ BitVec.ofBool lm ++ 0#4 ++ fn

/-- The word of an instruction that honours `sf` and `lm` only. -/
def sfLmWord (sf lm : Bool) (fn : BitVec 6) : Word := fieldsWord sf .rt .v0 .tr lm fn

/-- The word of an instruction that honours no field. -/
def codeWord (fn : BitVec 6) : Word := fieldsWord false .rt .v0 .tr false fn

/-- The minimal word of an instruction (R92, R94, R96, R100). -/
def encode : Instr → Word
  | .reserved00 => codeWord 0x00
  | .rtps sf lm => sfLmWord sf lm 0x01
  | .reserved02 => codeWord 0x02
  | .reserved03 => codeWord 0x03
  | .reserved04 => codeWord 0x04
  | .reserved05 => codeWord 0x05
  | .nclip => codeWord 0x06
  | .reserved07 => codeWord 0x07
  | .reserved08 => codeWord 0x08
  | .reserved09 => codeWord 0x09
  | .reserved0A => codeWord 0x0A
  | .reserved0B => codeWord 0x0B
  | .op sf lm => sfLmWord sf lm 0x0C
  | .reserved0D => codeWord 0x0D
  | .reserved0E => codeWord 0x0E
  | .reserved0F => codeWord 0x0F
  | .dpcs sf lm => sfLmWord sf lm 0x10
  | .intpl sf lm => sfLmWord sf lm 0x11
  | .mvmva sf mx v cv lm => fieldsWord sf mx v cv lm 0x12
  | .ncds sf lm => sfLmWord sf lm 0x13
  | .cdp sf lm => sfLmWord sf lm 0x14
  | .reserved15 => codeWord 0x15
  | .ncdt sf lm => sfLmWord sf lm 0x16
  | .reserved17 => codeWord 0x17
  | .reserved18 => codeWord 0x18
  | .reserved19 => codeWord 0x19
  | .reserved1A => codeWord 0x1A
  | .nccs sf lm => sfLmWord sf lm 0x1B
  | .cc sf lm => sfLmWord sf lm 0x1C
  | .reserved1D => codeWord 0x1D
  | .ncs sf lm => sfLmWord sf lm 0x1E
  | .reserved1F => codeWord 0x1F
  | .nct sf lm => sfLmWord sf lm 0x20
  | .reserved21 => codeWord 0x21
  | .reserved22 => codeWord 0x22
  | .reserved23 => codeWord 0x23
  | .reserved24 => codeWord 0x24
  | .reserved25 => codeWord 0x25
  | .reserved26 => codeWord 0x26
  | .reserved27 => codeWord 0x27
  | .sqr sf lm => sfLmWord sf lm 0x28
  | .dcpl sf lm => sfLmWord sf lm 0x29
  | .dpct sf lm => sfLmWord sf lm 0x2A
  | .reserved2B => codeWord 0x2B
  | .reserved2C => codeWord 0x2C
  | .avsz3 => codeWord 0x2D
  | .avsz4 => codeWord 0x2E
  | .reserved2F => codeWord 0x2F
  | .rtpt sf lm => sfLmWord sf lm 0x30
  | .reserved31 => codeWord 0x31
  | .reserved32 => codeWord 0x32
  | .reserved33 => codeWord 0x33
  | .reserved34 => codeWord 0x34
  | .reserved35 => codeWord 0x35
  | .reserved36 => codeWord 0x36
  | .reserved37 => codeWord 0x37
  | .reserved38 => codeWord 0x38
  | .reserved39 => codeWord 0x39
  | .reserved3A => codeWord 0x3A
  | .reserved3B => codeWord 0x3B
  | .reserved3C => codeWord 0x3C
  | .gpf sf lm => sfLmWord sf lm 0x3D
  | .gpl sf lm => sfLmWord sf lm 0x3E
  | .ncct sf lm => sfLmWord sf lm 0x3F

/-- The bits of the word an instruction's handler honours (R92, R93 and the column "uses" of R94):
`fn` always, `sf` and `lm` where used, `mx`, `v`, `cv` in MVMVA only. -/
def honouredMask : Instr → Word
  | .reserved00 => 0x0000003F
  | .rtps _ _ => 0x0008043F
  | .reserved02 => 0x0000003F
  | .reserved03 => 0x0000003F
  | .reserved04 => 0x0000003F
  | .reserved05 => 0x0000003F
  | .nclip => 0x0000003F
  | .reserved07 => 0x0000003F
  | .reserved08 => 0x0000003F
  | .reserved09 => 0x0000003F
  | .reserved0A => 0x0000003F
  | .reserved0B => 0x0000003F
  | .op _ _ => 0x0008043F
  | .reserved0D => 0x0000003F
  | .reserved0E => 0x0000003F
  | .reserved0F => 0x0000003F
  | .dpcs _ _ => 0x0008043F
  | .intpl _ _ => 0x0008043F
  | .mvmva _ _ _ _ _ => 0x000FE43F
  | .ncds _ _ => 0x0008043F
  | .cdp _ _ => 0x0008043F
  | .reserved15 => 0x0000003F
  | .ncdt _ _ => 0x0008043F
  | .reserved17 => 0x0000003F
  | .reserved18 => 0x0000003F
  | .reserved19 => 0x0000003F
  | .reserved1A => 0x0000003F
  | .nccs _ _ => 0x0008043F
  | .cc _ _ => 0x0008043F
  | .reserved1D => 0x0000003F
  | .ncs _ _ => 0x0008043F
  | .reserved1F => 0x0000003F
  | .nct _ _ => 0x0008043F
  | .reserved21 => 0x0000003F
  | .reserved22 => 0x0000003F
  | .reserved23 => 0x0000003F
  | .reserved24 => 0x0000003F
  | .reserved25 => 0x0000003F
  | .reserved26 => 0x0000003F
  | .reserved27 => 0x0000003F
  | .sqr _ _ => 0x0008043F
  | .dcpl _ _ => 0x0008043F
  | .dpct _ _ => 0x0008043F
  | .reserved2B => 0x0000003F
  | .reserved2C => 0x0000003F
  | .avsz3 => 0x0000003F
  | .avsz4 => 0x0000003F
  | .reserved2F => 0x0000003F
  | .rtpt _ _ => 0x0008043F
  | .reserved31 => 0x0000003F
  | .reserved32 => 0x0000003F
  | .reserved33 => 0x0000003F
  | .reserved34 => 0x0000003F
  | .reserved35 => 0x0000003F
  | .reserved36 => 0x0000003F
  | .reserved37 => 0x0000003F
  | .reserved38 => 0x0000003F
  | .reserved39 => 0x0000003F
  | .reserved3A => 0x0000003F
  | .reserved3B => 0x0000003F
  | .reserved3C => 0x0000003F
  | .gpf _ _ => 0x0008043F
  | .gpl _ _ => 0x0008043F
  | .ncct _ _ => 0x0008043F

end Sys2Proof
end

