-- ==== Sys2Proof/Machine/Arith.lean ====
section
/-!
DEFINITION. The primitive functions on integers of 00_scope.md R9, the two bit counts, and the
read views that are functions of stored bits alone: FLAG (10_state.md R42, R43) and the 5:5:5
colour view (46_register_access.md R226).
-/

namespace Sys2Proof.Machine

/-- `v >> n`: floor of `v / 2^n`, rounding toward minus infinity (R9). -/
def asr (v : Int) (n : Nat) : Int := v / 2 ^ n

/-- `v << n`: no bits are lost (R9). -/
def shl (v : Int) (n : Nat) : Int := v * 2 ^ n

/-- `sext_N(v)`: the signed reading of the low `n` bits (R9). -/
def sext (n : Nat) (v : Int) : Int :=
  let u := v % 2 ^ n
  if u ≥ 2 ^ (n - 1) then u - 2 ^ n else u

/-- `clamp(v, lo, hi)` (R9). -/
def clamp (v lo hi : Int) : Int :=
  if v < lo then lo else if v > hi then hi else v

/-- `clz16(v)` for `1 ≤ v ≤ 0xFFFF`: 16 less the number of bits needed to write `v` (R9). -/
def clz16 (v : Nat) : Nat := 16 - (Nat.log2 v + 1)

/-- "the number of consecutive bits of v, counted from bit 31 downward, that equal v[31]"
(46_register_access.md R240). -/
def signRun (v : Word) : Nat :=
  ((List.range 32).takeWhile fun k => v.getLsbD (31 - k) == v.getLsbD 31).length

/-- The shift of an instruction: `sh = 12 * sf` (R12). -/
def shiftOf (sf : Bool) : Nat := if sf then 12 else 0

/-- The lower bound of IR1..IR3 that `lm` selects (40_primitives.md R116). -/
def irLow (lm : Bool) : Int := if lm then 0 else -0x8000

/-- Bits 15:0, the place of the first-named of two fields (20_memory.md R73). -/
def lo (v : Word) : Half := v.extractLsb' 0 16

/-- Bits 31:16, the place of the second-named of two fields (R73). -/
def hi (v : Word) : Half := v.extractLsb' 16 16

/-- Signed 16-bit fields read sign-extended (46_register_access.md R222). -/
def readSigned (h : Half) : Word := h.signExtend 32

/-- Unsigned 16-bit fields read zero-extended (R223). -/
def readUnsigned (h : Half) : Word := h.setWidth 32

/-- The read view of `H` under `H_READ_SIGN_EXTENDS` (R224). -/
def readH (signExtends : Bool) (h : Half) : Word :=
  if signExtends then readSigned h else readUnsigned h

/-- The mask of 10_state.md R43: the bits of FLAG whose OR is bit 31. -/
def errMask : Word := 0x7F87E000

/-- FLAG bits 30:12 "as placed in the word" (R43). -/
def flagPlaced (stored : BitVec 19) : Word := 0#1 ++ stored ++ 0#12

/-- `ERR` of R43: bit 31 as a function of the stored bits. -/
def errBit (stored : BitVec 19) : Bool := flagPlaced stored &&& errMask != 0

/-- The read view of FLAG: `ERR ++ FLAG[30:12] ++ 0x000` (R228). -/
def flagView (stored : BitVec 19) : Word := BitVec.ofBool (errBit stored) ++ stored ++ 0#12

/-- The stored bits of FLAG that a written word carries: bits 30:12 (R242). -/
def flagStored (v : Word) : BitVec 19 := v.extractLsb' 12 19

/-- One five-bit lane of the colour view: `clamp(IR >> 7, 0, 0x1F)` (R226). -/
def colourLane (ir : Half) : BitVec 5 := BitVec.ofInt 5 (clamp (asr ir.toInt 7) 0 0x1F)

/-- The read view of IRGB and ORGB: `zext_32(c3 ++ c2 ++ c1)` (R226). -/
def colourView (ir : Triple Half) : Word :=
  0#17 ++ colourLane ir.l3 ++ colourLane ir.l2 ++ colourLane ir.l1

/-- One lane of a colour written to IRGB, times 0x80 (R238). -/
def colourUnpack (c : BitVec 5) : Half := c.setWidth 16 <<< 7

end Sys2Proof.Machine
end

