-- ==== Sys2Proof/Config.lean ====
section
/-!
DEFINITION. The named parameters of 00_scope.md R7 ("A model may make the ones marked "parameter"
fields of its configuration; the others are fixed"). The values this machine takes are
`Sys2Proof.Machine.config` in Machine/Ops.lean; the alternatives stay expressible, and every
shared operation takes the configuration as its argument.
-/

namespace Sys2Proof

/-- `MAC123_WIDE_OVERFLOW` (92_eei_decisions.md D3). -/
inductive WideOverflow
  /-- Bits 43:0 of the sum are kept and read as a signed number. -/
  | wrap
  /-- The sum is clamped to [−2^43, 2^43−1]. -/
  | clamp
deriving DecidableEq, Repr

/-- `RESERVED_FUNCTION` (92_eei_decisions.md D6): `nop` is the one value the spec defines. -/
inductive ReservedFunction
  /-- No state change at all, FLAG included. -/
  | nop
deriving DecidableEq, Repr

/-- What an implementation fixes (00_scope.md R7, the rows marked "parameter"). -/
structure Config where
  /-- `MAC123_WIDE_OVERFLOW`, D3. -/
  wideOverflow : WideOverflow
  /-- `H_READ_SIGN_EXTENDS`, D9. -/
  hReadSignExtends : Bool
  /-- `RESERVED_FUNCTION`, D6. -/
  reservedFunction : ReservedFunction
  /-- `UNR_TABLE`, 257 bytes, D8. -/
  unrTable : List Byte
  /-- `FLAG_CLEARED_AT_EXEC`, D5. -/
  flagClearedAtExec : Bool
  /-- `RTP_IR3_QUIRK`, D20. -/
  rtpIr3Quirk : Bool
deriving DecidableEq, Repr

end Sys2Proof
end

