-- ==== Sys2Proof/Machine/State.lean ====
section
/-!
DEFINITION. The state: the register file of 10_state.md, the caller's transactions not yet taken,
and the value the last transaction returned. The spec's block has no memory, no program counter,
no modes and no exception registers (R59, R60; 20_memory.md R70; 60_exceptions.md R254, R255, R258).
-/

namespace Sys2Proof.Machine

/-- The names of the index space, in index order 0 to 63 (10_state.md R61). -/
inductive Reg
  | vxy0 | vz0 | vxy1 | vz1 | vxy2 | vz2 | rgbc | otz
  | ir0 | ir1 | ir2 | ir3
  | sxy0 | sxy1 | sxy2 | sxyp
  | sz0 | sz1 | sz2 | sz3
  | rgb0 | rgb1 | rgb2 | res1
  | mac0 | mac1 | mac2 | mac3
  | irgb | orgb | lzcs | lzcr
  | rt11rt12 | rt13rt21 | rt22rt23 | rt31rt32 | rt33
  | trX | trY | trZ
  | l11l12 | l13l21 | l22l23 | l31l32 | l33
  | rbk | gbk | bbk
  | lr1lr2 | lr3lg1 | lg2lg3 | lb1lb2 | lb3
  | rfc | gfc | bfc
  | ofx | ofy | h | dqa | dqb | zsf3 | zsf4 | flag
deriving DecidableEq, Repr

/-- The stored conditions of FLAG, bits 30 to 12 in this order (10_state.md R42). -/
inductive FlagBit
  | mac1Pos | mac2Pos | mac3Pos
  | mac1Neg | mac2Neg | mac3Neg
  | ir1Sat | ir2Sat | ir3Sat
  | colRSat | colGSat | colBSat
  | szOtzSat | divOvf
  | mac0Pos | mac0Neg
  | sxSat | sySat
  | ir0Sat
deriving DecidableEq, Repr

/-- The stored part of FLAG: bits 30:12, bit 12 of FLAG being bit 0 here (10_state.md R42). -/
abbrev Flags := BitVec 19

/-- The register file (10_state.md R20): all state of the block, every field typed as its row says.
A 16- or 32-bit field is read as the signed or unsigned integer of its row (00_scope.md R10). -/
@[ext]
structure RegFile where
  /-- `V0 = (VX0, VY0, VZ0)`, signed 16-bit lanes (R23). -/
  v0 : Triple Half
  /-- `V1` (R23). -/
  v1 : Triple Half
  /-- `V2` (R23). -/
  v2 : Triple Half
  /-- The input colour `R`, `G`, `B`, `CODE` (R24). -/
  rgbc : Colour
  /-- Average Z, unsigned (R25). -/
  otz : Half
  /-- `IR0`, signed (R26). -/
  ir0 : Half
  /-- `(IR1, IR2, IR3)`, signed (R26). -/
  ir : Triple Half
  /-- The oldest entry of the screen XY FIFO, signed (R27). -/
  sxy0 : ScreenXY
  sxy1 : ScreenXY
  /-- The newest entry (R27). -/
  sxy2 : ScreenXY
  /-- The oldest entry of the screen Z FIFO, unsigned (R28). -/
  sz0 : Half
  sz1 : Half
  sz2 : Half
  /-- The newest entry (R28). -/
  sz3 : Half
  /-- The oldest entry of the colour FIFO (R29). -/
  rgb0 : Colour
  rgb1 : Colour
  /-- The newest entry (R29). -/
  rgb2 : Colour
  /-- Index 23, a plain word with no function (R31). -/
  res1 : Word
  /-- `MAC0`, signed (R32). -/
  mac0 : Word
  /-- `(MAC1, MAC2, MAC3)`, signed (R32). -/
  mac : Triple Word
  /-- The leading-bit source, signed (R34). -/
  lzcs : Word
  /-- The leading-bit result, 0 to 32; six bits are what `RESTORE` takes (R34, R246). -/
  lzcr : BitVec 6
  /-- The rotation matrix (R35). -/
  rt : Mat3
  /-- The translation vector (R36). -/
  tr : Triple Word
  /-- The light matrix (R37). -/
  llm : Mat3
  /-- The background colour (R38). -/
  bk : Triple Word
  /-- The light-colour matrix, rows LR, LG, LB (R39). -/
  lcm : Mat3
  /-- The far colour (R40). -/
  fc : Triple Word
  /-- Screen offset X, signed (R41). -/
  ofx : Word
  /-- Screen offset Y, signed (R41). -/
  ofy : Word
  /-- Projection plane distance, unsigned (R41). -/
  h : Half
  /-- Depth-cue coefficient, signed (R41). -/
  dqa : Half
  /-- Depth-cue coefficient, signed (R41). -/
  dqb : Word
  /-- Average-Z scale factor, signed (R41). -/
  zsf3 : Half
  /-- Average-Z scale factor, signed (R41). -/
  zsf4 : Half
  /-- FLAG bits 30:12; bit 31 is derived and bits 11:0 are 0, so neither is stored (R42, R43). -/
  flag : Flags
deriving DecidableEq, Repr

/-- What the caller can ask of the block (00_scope.md R4). An index is one of 0..63 by type
(20_memory.md R71, 92_eei_decisions.md D12); `RESTORE` carries 64 words by type. -/
inductive Transaction
  | rd (i : Fin 64)
  | wr (i : Fin 64) (v : Word)
  | exec (w : Word)
  | reset
  | dump
  | restore (d : DumpWords)
deriving DecidableEq, Repr

/-- What a transaction returns to the caller: `RD` a word, `DUMP` 64 words, the others nothing. -/
inductive Reply
  | word (w : Word)
  | words (d : DumpWords)
deriving DecidableEq, Repr

/-- The machine. `file` is the spec's state (00_scope.md R15); `pending` and `reply` are the
model's own fields for the interface (log entries 1 and 2). -/
@[ext]
structure State where
  /-- The register file (10_state.md R20). -/
  file : RegFile
  /-- The caller's transactions not yet taken, oldest first (DESIGN CHOICE, log entry 1). -/
  pending : List Transaction
  /-- What the transaction of the last step returned (DESIGN CHOICE, log entry 2). -/
  reply : Option Reply
deriving DecidableEq, Repr

/-- No fault exists: "no instruction ever fails/throws" (60_exceptions.md R250). The type has no
constructor, so no step of the machine can answer one; that is the spec's own statement, not a
choice of the model. -/
inductive Fault
deriving DecidableEq, Repr

/-- Why the machine gives an instruction no meaning. -/
inductive Refusal
  /-- Raised by an arm of `exec` whose instruction has no meaning yet, under the mnemonic of
  spec/opcode_table.json; safe, since the run stops. No arm raises it now. -/
  | notModelled (mnemonic : String)
deriving DecidableEq, Repr

/-- The all-zero triple. -/
def zeroTriple (n : Nat) : Triple (BitVec n) := ⟨0, 0, 0⟩
/-- The all-zero matrix. -/
def zeroMat3 : Mat3 := ⟨zeroTriple 16, zeroTriple 16, zeroTriple 16⟩
/-- The all-zero colour. -/
def zeroColour : Colour := ⟨0, 0, 0, 0⟩
/-- The all-zero screen pair. -/
def zeroXY : ScreenXY := ⟨0, 0⟩

/-- The register file after `RESET`: every field 0, `LZCR` included
(70_reset_and_hazards.md R270, R271, R272). -/
def RegFile.zero : RegFile where
  v0 := zeroTriple 16
  v1 := zeroTriple 16
  v2 := zeroTriple 16
  rgbc := zeroColour
  otz := 0
  ir0 := 0
  ir := zeroTriple 16
  sxy0 := zeroXY
  sxy1 := zeroXY
  sxy2 := zeroXY
  sz0 := 0
  sz1 := 0
  sz2 := 0
  sz3 := 0
  rgb0 := zeroColour
  rgb1 := zeroColour
  rgb2 := zeroColour
  res1 := 0
  mac0 := 0
  mac := zeroTriple 32
  lzcs := 0
  lzcr := 0
  rt := zeroMat3
  tr := zeroTriple 32
  llm := zeroMat3
  bk := zeroTriple 32
  lcm := zeroMat3
  fc := zeroTriple 32
  ofx := 0
  ofy := 0
  h := 0
  dqa := 0
  dqb := 0
  zsf3 := 0
  zsf4 := 0
  flag := 0

/-- The machine right after reset: the file of R271, no transaction waiting and nothing returned
(DESIGN CHOICE for the last two, log entries 1 and 2). -/
def State.reset : State := { file := .zero, pending := [], reply := none }

end Sys2Proof.Machine
end

