-- ==== Sys2Proof/Machine/Flags.lean ====
section
/-!
DEFINITION. FLAG: the bit numbers of 10_state.md R42, setting a bit (40_primitives.md R110) and the
prologue of a defined instruction (R112). `err_update` (R111) stores nothing here, because bit 31
is a function of the stored bits read through `flagView` and bits 11:0 are not stored (R43).
-/

namespace Sys2Proof.Machine

/-- The bit number of a condition in the FLAG word (R42). -/
def FlagBit.position : FlagBit → Nat
  | .mac1Pos => 30
  | .mac2Pos => 29
  | .mac3Pos => 28
  | .mac1Neg => 27
  | .mac2Neg => 26
  | .mac3Neg => 25
  | .ir1Sat => 24
  | .ir2Sat => 23
  | .ir3Sat => 22
  | .colRSat => 21
  | .colGSat => 20
  | .colBSat => 19
  | .szOtzSat => 18
  | .divOvf => 17
  | .mac0Pos => 16
  | .mac0Neg => 15
  | .sxSat => 14
  | .sySat => 13
  | .ir0Sat => 12

/-- The condition as one bit of the stored bits 30:12. -/
def FlagBit.mask (b : FlagBit) : Flags := 1#19 <<< (b.position - 12)

/-- Whether the stored bits record the condition. -/
def flagHas (w : Flags) (b : FlagBit) : Bool := w.getLsbD (b.position - 12)

/-- Whether the file's FLAG records the condition. -/
def RegFile.flagSet (f : RegFile) (b : FlagBit) : Bool := flagHas f.flag b

/-- `if p then flag(b)` (R110): set the bit, leave every other. -/
def raiseIf (p : Prop) [Decidable p] (b : FlagBit) (w : Flags) : Flags :=
  if p then w ||| b.mask else w

/-- `MACi_POS` (R42). -/
def macPos : Lane → FlagBit
  | .l1 => .mac1Pos
  | .l2 => .mac2Pos
  | .l3 => .mac3Pos

/-- `MACi_NEG` (R42). -/
def macNeg : Lane → FlagBit
  | .l1 => .mac1Neg
  | .l2 => .mac2Neg
  | .l3 => .mac3Neg

/-- `IRi_SAT` (R42). -/
def irSat : Lane → FlagBit
  | .l1 => .ir1Sat
  | .l2 => .ir2Sat
  | .l3 => .ir3Sat

/-- The prologue of a defined instruction: `FLAG <- 0` under `FLAG_CLEARED_AT_EXEC` (R112). -/
def prologue (cfg : Config) (f : RegFile) : RegFile :=
  { f with flag := if cfg.flagClearedAtExec then 0 else f.flag }

end Sys2Proof.Machine
end

