-- ==== Sys2Proof/Machine/Divide.lean ====
section
/-! DEFINITION. The reciprocal divider and its table (40_primitives.md R124, R125). -/

namespace Sys2Proof.Machine

/-- The generator of `UNR_TABLE` (R125). -/
def unrEntry (i : Nat) : Nat := (0x40000 / (i + 0x100) + 1) / 2 - 0x101

/-- `UNR_TABLE`, 257 bytes, index 0 to 0x100 (R125). -/
def unrTable : List Byte := (List.range 257).map fun i => BitVec.ofNat 8 (unrEntry i)

/-- The two refinement lines of R124 on the normalised divisor `d`: the reciprocal. -/
def refine (table : List Byte) (d : Nat) : Nat :=
  let u := (table.getD ((d - 0x7FC0) >>> 7) 0).toNat + 0x101
  let d' := (0x2000080 - d * u) >>> 8
  (0x80 + d' * u) >>> 8

/-- The value `divide(h, z)` returns (R124). -/
def divideValue (cfg : Config) (h z : Nat) : Nat :=
  if h ≥ 2 * z then 0x1FFFF
  else
    let c := clz16 z
    let n := h <<< c
    let d := refine cfg.unrTable (z <<< c)
    min 0x1FFFF ((n * d + 0x8000) >>> 16)

/-- The flag `divide(h, z)` sets: the overflow test, a zero divisor included (R124). -/
def divideFlag (h z : Nat) (w : Flags) : Flags := raiseIf (h ≥ 2 * z) .divOvf w

end Sys2Proof.Machine
end

