-- ==== Sys2Proof/Machine/Operands.lean ====
section
/-!
DEFINITION. The operand forms: the matrix, vector and translation operands the MVMVA selectors
name (45_mvmva_reserved.md R211 to R214), the reserved matrix (R212), and the colour product
`color_mul` (40_primitives.md R129).
-/

namespace Sys2Proof.Machine

/-- `R << 4` as a stored 16-bit element (R212). -/
def redElement (c : Colour) : Half := BitVec.ofInt 16 (shl c.r.toNat 4)

/-- The matrix of the reserved selector `mx = 3` (R212). -/
def reservedMatrix (f : RegFile) : Mat3 where
  l1 := ⟨BitVec.ofInt 16 (-(shl f.rgbc.r.toNat 4)), redElement f.rgbc, f.ir0⟩
  l2 := ⟨f.rt.l1.l3, f.rt.l1.l3, f.rt.l1.l3⟩
  l3 := ⟨f.rt.l2.l2, f.rt.l2.l2, f.rt.l2.l2⟩

/-- `matrix_operand(mx)` (R211, R212). -/
def matrixOperand (f : RegFile) : MatrixSel → Mat3
  | .rt => f.rt
  | .llm => f.llm
  | .lcm => f.lcm
  | .reserved => reservedMatrix f

/-- `vector_operand(v)` (R211, R214). -/
def vectorOperand (f : RegFile) : VectorSel → Triple Half
  | .v0 => f.v0
  | .v1 => f.v1
  | .v2 => f.v2
  | .ir => f.ir

/-- `translation_operand(cv)` for `cv` other than 2; 2 has the behaviour of R213, for which the
vector is `FC` (R211). -/
def translationOperand (f : RegFile) : TransSel → Option (Triple Word)
  | .tr => some f.tr
  | .bk => some f.bk
  | .fc => some f.fc
  | .none => none

/-- `T[i] << 12`, or 0 without a translation: the start of a lane's sum (40_primitives.md R126). -/
def promote (t : Option (Triple Word)) (l : Lane) : Int :=
  match t with
  | some t => shl (t.get l).toInt 12
  | none => 0

/-- `color_mul()`: the input colour times the current IR vector, times 16 (R129). -/
def colorMul (f : RegFile) : Triple Int where
  l1 := shl (f.rgbc.r.toNat * f.ir.l1.toInt) 4
  l2 := shl (f.rgbc.g.toNat * f.ir.l2.toInt) 4
  l3 := shl (f.rgbc.b.toNat * f.ir.l3.toInt) 4

end Sys2Proof.Machine
end

