-- ==== Sys2Proof/Machine/Ops.lean ====
section
/-!
DEFINITION. The parameter values of this machine and the shared operations: the saturation
primitives and the FIFO pushes (40_primitives.md R113 to R123), and the frame every defined
instruction runs in (R112).

TAKING AN EXCEPTION: there is no such operation on this hardware. "The block raises no synchronous
exception, ever" (60_exceptions.md R250); no state is saved, no mode changes, no vector exists
(R255) and nothing returns from a trap (R256). What a CPU would report by exception is a bit of
FLAG (R251), set by the operations below.
-/

namespace Sys2Proof.Machine

/-- The default value of every parameter (00_scope.md R7; 92_eei_decisions.md D3, D5, D6, D8, D9,
D20; log entries 3 to 8). -/
def config : Config where
  wideOverflow := .wrap
  hReadSignExtends := true
  reservedFunction := .nop
  unrTable := unrTable
  flagClearedAtExec := true
  rtpIr3Quirk := true

/-! The wide accumulator, MAC1..MAC3 -/

/-- The value `wide(i, v)` returns (R113). -/
def wideValue (cfg : Config) (v : Int) : Int :=
  match cfg.wideOverflow with
  | .wrap => sext 44 v
  | .clamp => clamp v (-2 ^ 43) (2 ^ 43 - 1)

/-- The flags `wide(i, v)` sets (R113). -/
def wideFlags (l : Lane) (v : Int) (w : Flags) : Flags :=
  raiseIf (v < -2 ^ 43) (macNeg l) (raiseIf (v > 2 ^ 43 - 1) (macPos l) w)

/-- The word `set_mac(i, v, sh)` stores: the checked value, shifted, its low 32 bits (R114). -/
def macWord (cfg : Config) (v : Int) (sh : Nat) : Word := BitVec.ofInt 32 (asr (wideValue cfg v) sh)

/-- `set_mac(i, v, sh)`: check, shift, keep 32 bits (R114). -/
def setMac (cfg : Config) (l : Lane) (v : Int) (sh : Nat) (f : RegFile) : RegFile :=
  { f with mac := f.mac.set l (macWord cfg v sh), flag := wideFlags l v f.flag }

/-! MAC0 -/

/-- The flags `check_mac0(v)` sets (R115). -/
def mac0Flags (v : Int) (w : Flags) : Flags :=
  raiseIf (v < -2 ^ 31) .mac0Neg (raiseIf (v > 2 ^ 31 - 1) .mac0Pos w)

/-- `set_mac0(v)`: the low 32 bits are kept, not clamped (R115). -/
def setMac0 (v : Int) (f : RegFile) : RegFile :=
  { f with mac0 := BitVec.ofInt 32 v, flag := mac0Flags v f.flag }

/-! IR -/

/-- The value `set_ir(i, v, lm)` stores (R116). -/
def irHalf (v : Int) (lm : Bool) : Half := BitVec.ofInt 16 (clamp v (irLow lm) 0x7FFF)

/-- The flag `set_ir(i, v, lm)` sets (R116). -/
def irFlags (l : Lane) (v : Int) (lm : Bool) (w : Flags) : Flags :=
  raiseIf (v < irLow lm ∨ v > 0x7FFF) (irSat l) w

/-- `set_ir(i, v, lm)` (R116). -/
def setIr (l : Lane) (v : Int) (lm : Bool) (f : RegFile) : RegFile :=
  { f with ir := f.ir.set l (irHalf v lm), flag := irFlags l v lm f.flag }

/-- `set_ir0(v)` (R117). -/
def setIr0 (v : Int) (f : RegFile) : RegFile :=
  { f with
    ir0 := BitVec.ofInt 16 (clamp v 0 0x1000)
    flag := raiseIf (v < 0 ∨ v > 0x1000) .ir0Sat f.flag }

/-- `set_ir(i, MACi, lm)`: IR from the stored 32-bit accumulator (R118). -/
def setIrFromMac (l : Lane) (lm : Bool) (f : RegFile) : RegFile :=
  setIr l (f.mac.get l).toInt lm f

/-- `set_mac_ir(i, v, sh, lm)` (R118). -/
def setMacIr (cfg : Config) (l : Lane) (v : Int) (sh : Nat) (lm : Bool) (f : RegFile) : RegFile :=
  setIrFromMac l lm (setMac cfg l v sh f)

/-- `for i in 1..3` (00_scope.md R11). -/
def eachLane (g : Lane → RegFile → RegFile) (f : RegFile) : RegFile :=
  g .l3 (g .l2 (g .l1 f))

/-! Colours -/

/-- The byte `sat_rgb(k, v)` returns (R119). -/
def satRgb (v : Int) : Byte := BitVec.ofInt 8 (clamp v 0 255)

/-- The flag `sat_rgb(k, v)` sets (R119). -/
def satRgbFlag (b : FlagBit) (v : Int) (w : Flags) : Flags := raiseIf (v < 0 ∨ v > 255) b w

/-- The colour lane of an accumulator: `MACi >> 4` (R120). -/
def macColour (m : Word) : Int := asr m.toInt 4

/-- `push_rgb()`: push the colour FIFO from MAC1..MAC3, with the code byte of RGBC (R120). -/
def pushRgb (f : RegFile) : RegFile :=
  { f with
    rgb0 := f.rgb1
    rgb1 := f.rgb2
    rgb2 := ⟨satRgb (macColour f.mac.l1), satRgb (macColour f.mac.l2), satRgb (macColour f.mac.l3),
             f.rgbc.code⟩
    flag := satRgbFlag .colBSat (macColour f.mac.l3)
              (satRgbFlag .colGSat (macColour f.mac.l2)
                (satRgbFlag .colRSat (macColour f.mac.l1) f.flag)) }

/-! Screen values -/

/-- The value `push_sz(v)` and `set_otz(v)` store (R121, R122). -/
def zHalf (v : Int) : Half := BitVec.ofInt 16 (clamp v 0 0xFFFF)

/-- The flag `push_sz(v)` and `set_otz(v)` set (R121, R122). -/
def zFlags (v : Int) (w : Flags) : Flags := raiseIf (v < 0 ∨ v > 0xFFFF) .szOtzSat w

/-- `push_sz(v)` (R121). -/
def pushSz (v : Int) (f : RegFile) : RegFile :=
  { f with sz0 := f.sz1, sz1 := f.sz2, sz2 := f.sz3, sz3 := zHalf v, flag := zFlags v f.flag }

/-- `set_otz(v)` (R122). -/
def setOtz (v : Int) (f : RegFile) : RegFile :=
  { f with otz := zHalf v, flag := zFlags v f.flag }

/-- The screen coordinate `push_sxy` stores (R123). -/
def screenHalf (v : Int) : Half := BitVec.ofInt 16 (clamp v (-0x400) 0x3FF)

/-- `push_sxy(x, y)` (R123). -/
def pushSxy (x y : Int) (f : RegFile) : RegFile :=
  { f with
    sxy0 := f.sxy1
    sxy1 := f.sxy2
    sxy2 := ⟨screenHalf x, screenHalf y⟩
    flag := raiseIf (y < -0x400 ∨ y > 0x3FF) .sySat
              (raiseIf (x < -0x400 ∨ x > 0x3FF) .sxSat f.flag) }

/-! The frame of a defined instruction -/

/-- Prologue, handler, epilogue (30_encoding.md R90, 40_primitives.md R112): only the register file
changes. The epilogue `err_update` (R111) has nothing to store, see Machine/Flags.lean. -/
def runDefined (cfg : Config) (handler : RegFile → RegFile) (s : State) :
    Host.Outcome State Fault Refusal :=
  .next { s with file := handler (prologue cfg s.file) }

end Sys2Proof.Machine
end

