-- ==== Sys2Proof/Machine/Access.lean ====
section
/-!
DEFINITION. Register access: the index map (10_state.md R61), `RD` and `WR` at every index
(46_register_access.md R220 to R243), `DUMP` and `RESTORE` (R245, R246), `RESET`
(70_reset_and_hazards.md R270), and each as a transaction on the state.
-/

namespace Sys2Proof.Machine

/-- The names in index order (10_state.md R61). -/
def Reg.all : List Reg :=
  [[.vxy0, .vz0, .vxy1, .vz1, .vxy2, .vz2, .rgbc, .otz],
    [.ir0, .ir1, .ir2, .ir3, .sxy0, .sxy1, .sxy2, .sxyp],
    [.sz0, .sz1, .sz2, .sz3, .rgb0, .rgb1, .rgb2, .res1],
    [.mac0, .mac1, .mac2, .mac3, .irgb, .orgb, .lzcs, .lzcr],
    [.rt11rt12, .rt13rt21, .rt22rt23, .rt31rt32, .rt33, .trX, .trY, .trZ],
    [.l11l12, .l13l21, .l22l23, .l31l32, .l33, .rbk, .gbk, .bbk],
    [.lr1lr2, .lr3lg1, .lg2lg3, .lb1lb2, .lb3, .rfc, .gfc, .bfc],
    [.ofx, .ofy, .h, .dqa, .dqb, .zsf3, .zsf4, .flag]].flatten

/-- The name of an index (10_state.md R61). -/
def Reg.ofIndex (i : Fin 64) : Reg := Reg.all[i.val]'(by simp [Reg.all])

/-- The index of a name (10_state.md R61). -/
def Reg.index : Reg → Fin 64
  | .vxy0 => 0
  | .vz0 => 1
  | .vxy1 => 2
  | .vz1 => 3
  | .vxy2 => 4
  | .vz2 => 5
  | .rgbc => 6
  | .otz => 7
  | .ir0 => 8
  | .ir1 => 9
  | .ir2 => 10
  | .ir3 => 11
  | .sxy0 => 12
  | .sxy1 => 13
  | .sxy2 => 14
  | .sxyp => 15
  | .sz0 => 16
  | .sz1 => 17
  | .sz2 => 18
  | .sz3 => 19
  | .rgb0 => 20
  | .rgb1 => 21
  | .rgb2 => 22
  | .res1 => 23
  | .mac0 => 24
  | .mac1 => 25
  | .mac2 => 26
  | .mac3 => 27
  | .irgb => 28
  | .orgb => 29
  | .lzcs => 30
  | .lzcr => 31
  | .rt11rt12 => 32
  | .rt13rt21 => 33
  | .rt22rt23 => 34
  | .rt31rt32 => 35
  | .rt33 => 36
  | .trX => 37
  | .trY => 38
  | .trZ => 39
  | .l11l12 => 40
  | .l13l21 => 41
  | .l22l23 => 42
  | .l31l32 => 43
  | .l33 => 44
  | .rbk => 45
  | .gbk => 46
  | .bbk => 47
  | .lr1lr2 => 48
  | .lr3lg1 => 49
  | .lg2lg3 => 50
  | .lb1lb2 => 51
  | .lb3 => 52
  | .rfc => 53
  | .gfc => 54
  | .bfc => 55
  | .ofx => 56
  | .ofy => 57
  | .h => 58
  | .dqa => 59
  | .dqb => 60
  | .zsf3 => 61
  | .zsf4 => 62
  | .flag => 63

/-- A colour word: the first-named byte in bits 7:0 (R225). -/
def packColour (c : Colour) : Word := c.code ++ c.b ++ c.g ++ c.r

/-- The bytes of a colour word (R234). -/
def unpackColour (v : Word) : Colour where
  r := v.extractLsb' 0 8
  g := v.extractLsb' 8 8
  b := v.extractLsb' 16 8
  code := v.extractLsb' 24 8

/-- `x[i]`, the word `RD i` returns (R221 to R228). -/
def readReg (cfg : Config) (r : Reg) (f : RegFile) : Word :=
  match r with
  | .vxy0 => f.v0.l2 ++ f.v0.l1
  | .vz0 => readSigned f.v0.l3
  | .vxy1 => f.v1.l2 ++ f.v1.l1
  | .vz1 => readSigned f.v1.l3
  | .vxy2 => f.v2.l2 ++ f.v2.l1
  | .vz2 => readSigned f.v2.l3
  | .rgbc => packColour f.rgbc
  | .otz => readUnsigned f.otz
  | .ir0 => readSigned f.ir0
  | .ir1 => readSigned f.ir.l1
  | .ir2 => readSigned f.ir.l2
  | .ir3 => readSigned f.ir.l3
  | .sxy0 => f.sxy0.y ++ f.sxy0.x
  | .sxy1 => f.sxy1.y ++ f.sxy1.x
  | .sxy2 => f.sxy2.y ++ f.sxy2.x
  | .sxyp => f.sxy2.y ++ f.sxy2.x
  | .sz0 => readUnsigned f.sz0
  | .sz1 => readUnsigned f.sz1
  | .sz2 => readUnsigned f.sz2
  | .sz3 => readUnsigned f.sz3
  | .rgb0 => packColour f.rgb0
  | .rgb1 => packColour f.rgb1
  | .rgb2 => packColour f.rgb2
  | .res1 => f.res1
  | .mac0 => f.mac0
  | .mac1 => f.mac.l1
  | .mac2 => f.mac.l2
  | .mac3 => f.mac.l3
  | .irgb => colourView f.ir
  | .orgb => colourView f.ir
  | .lzcs => f.lzcs
  | .lzcr => f.lzcr.setWidth 32
  | .rt11rt12 => f.rt.l1.l2 ++ f.rt.l1.l1
  | .rt13rt21 => f.rt.l2.l1 ++ f.rt.l1.l3
  | .rt22rt23 => f.rt.l2.l3 ++ f.rt.l2.l2
  | .rt31rt32 => f.rt.l3.l2 ++ f.rt.l3.l1
  | .rt33 => readSigned f.rt.l3.l3
  | .trX => f.tr.l1
  | .trY => f.tr.l2
  | .trZ => f.tr.l3
  | .l11l12 => f.llm.l1.l2 ++ f.llm.l1.l1
  | .l13l21 => f.llm.l2.l1 ++ f.llm.l1.l3
  | .l22l23 => f.llm.l2.l3 ++ f.llm.l2.l2
  | .l31l32 => f.llm.l3.l2 ++ f.llm.l3.l1
  | .l33 => readSigned f.llm.l3.l3
  | .rbk => f.bk.l1
  | .gbk => f.bk.l2
  | .bbk => f.bk.l3
  | .lr1lr2 => f.lcm.l1.l2 ++ f.lcm.l1.l1
  | .lr3lg1 => f.lcm.l2.l1 ++ f.lcm.l1.l3
  | .lg2lg3 => f.lcm.l2.l3 ++ f.lcm.l2.l2
  | .lb1lb2 => f.lcm.l3.l2 ++ f.lcm.l3.l1
  | .lb3 => readSigned f.lcm.l3.l3
  | .rfc => f.fc.l1
  | .gfc => f.fc.l2
  | .bfc => f.fc.l3
  | .ofx => f.ofx
  | .ofy => f.ofy
  | .h => readH cfg.hReadSignExtends f.h
  | .dqa => readSigned f.dqa
  | .dqb => f.dqb
  | .zsf3 => readSigned f.zsf3
  | .zsf4 => readSigned f.zsf4
  | .flag => flagView f.flag

/-- The plain store of a word into the fields of an index (R231 to R235): what `RESTORE` does at
every index (R246) and what `WR` does at every index without a side effect. An index without
storage (15, 28, 29) stores nothing; `LZCS` is stored without recomputing `LZCR`; `LZCR` takes
bits 5:0 and FLAG bits 30:12 (R246). -/
def storeReg (r : Reg) (v : Word) (f : RegFile) : RegFile :=
  match r with
  | .vxy0 => { f with v0.l1 := lo v, v0.l2 := hi v }
  | .vz0 => { f with v0.l3 := lo v }
  | .vxy1 => { f with v1.l1 := lo v, v1.l2 := hi v }
  | .vz1 => { f with v1.l3 := lo v }
  | .vxy2 => { f with v2.l1 := lo v, v2.l2 := hi v }
  | .vz2 => { f with v2.l3 := lo v }
  | .rgbc => { f with rgbc := unpackColour v }
  | .otz => { f with otz := lo v }
  | .ir0 => { f with ir0 := lo v }
  | .ir1 => { f with ir.l1 := lo v }
  | .ir2 => { f with ir.l2 := lo v }
  | .ir3 => { f with ir.l3 := lo v }
  | .sxy0 => { f with sxy0.x := lo v, sxy0.y := hi v }
  | .sxy1 => { f with sxy1.x := lo v, sxy1.y := hi v }
  | .sxy2 => { f with sxy2.x := lo v, sxy2.y := hi v }
  | .sxyp => f
  | .sz0 => { f with sz0 := lo v }
  | .sz1 => { f with sz1 := lo v }
  | .sz2 => { f with sz2 := lo v }
  | .sz3 => { f with sz3 := lo v }
  | .rgb0 => { f with rgb0 := unpackColour v }
  | .rgb1 => { f with rgb1 := unpackColour v }
  | .rgb2 => { f with rgb2 := unpackColour v }
  | .res1 => { f with res1 := v }
  | .mac0 => { f with mac0 := v }
  | .mac1 => { f with mac.l1 := v }
  | .mac2 => { f with mac.l2 := v }
  | .mac3 => { f with mac.l3 := v }
  | .irgb => f
  | .orgb => f
  | .lzcs => { f with lzcs := v }
  | .lzcr => { f with lzcr := v.setWidth 6 }
  | .rt11rt12 => { f with rt.l1.l1 := lo v, rt.l1.l2 := hi v }
  | .rt13rt21 => { f with rt.l1.l3 := lo v, rt.l2.l1 := hi v }
  | .rt22rt23 => { f with rt.l2.l2 := lo v, rt.l2.l3 := hi v }
  | .rt31rt32 => { f with rt.l3.l1 := lo v, rt.l3.l2 := hi v }
  | .rt33 => { f with rt.l3.l3 := lo v }
  | .trX => { f with tr.l1 := v }
  | .trY => { f with tr.l2 := v }
  | .trZ => { f with tr.l3 := v }
  | .l11l12 => { f with llm.l1.l1 := lo v, llm.l1.l2 := hi v }
  | .l13l21 => { f with llm.l1.l3 := lo v, llm.l2.l1 := hi v }
  | .l22l23 => { f with llm.l2.l2 := lo v, llm.l2.l3 := hi v }
  | .l31l32 => { f with llm.l3.l1 := lo v, llm.l3.l2 := hi v }
  | .l33 => { f with llm.l3.l3 := lo v }
  | .rbk => { f with bk.l1 := v }
  | .gbk => { f with bk.l2 := v }
  | .bbk => { f with bk.l3 := v }
  | .lr1lr2 => { f with lcm.l1.l1 := lo v, lcm.l1.l2 := hi v }
  | .lr3lg1 => { f with lcm.l1.l3 := lo v, lcm.l2.l1 := hi v }
  | .lg2lg3 => { f with lcm.l2.l2 := lo v, lcm.l2.l3 := hi v }
  | .lb1lb2 => { f with lcm.l3.l1 := lo v, lcm.l3.l2 := hi v }
  | .lb3 => { f with lcm.l3.l3 := lo v }
  | .rfc => { f with fc.l1 := v }
  | .gfc => { f with fc.l2 := v }
  | .bfc => { f with fc.l3 := v }
  | .ofx => { f with ofx := v }
  | .ofy => { f with ofy := v }
  | .h => { f with h := lo v }
  | .dqa => { f with dqa := lo v }
  | .dqb => { f with dqb := v }
  | .zsf3 => { f with zsf3 := lo v }
  | .zsf4 => { f with zsf4 := lo v }
  | .flag => { f with flag := flagStored v }

/-- `WR 15`: push the SXY FIFO with the raw value; no clamp, no flag (R236). -/
def writeSxyp (v : Word) (f : RegFile) : RegFile :=
  { f with sxy0 := f.sxy1, sxy1 := f.sxy2, sxy2 := ⟨lo v, hi v⟩ }

/-- `WR 28`: decompose a 5:5:5 colour into IR1, IR2, IR3 (R238). -/
def writeIrgb (v : Word) (f : RegFile) : RegFile :=
  { f with ir := ⟨colourUnpack (v.extractLsb' 0 5), colourUnpack (v.extractLsb' 5 5),
                  colourUnpack (v.extractLsb' 10 5)⟩ }

/-- `WR 30`: store the source and recompute the result (R240). -/
def writeLzcs (v : Word) (f : RegFile) : RegFile :=
  { f with lzcs := v, lzcr := BitVec.ofNat 6 (signRun v) }

/-- `WR i, v` (R230): the side effects of 15, 28, 30, the ignored writes of 29 and 31, and a plain
store at every other index of R243, 14 and 63 among them. -/
def writeReg (r : Reg) (v : Word) (f : RegFile) : RegFile :=
  match r with
  | .sxyp => writeSxyp v f
  | .irgb => writeIrgb v f
  | .orgb => f
  | .lzcs => writeLzcs v f
  | .lzcr => f
  | r => storeReg r v f

/-- `DUMP`: the read view of every index, in index order (R245). -/
def dumpFile (cfg : Config) (f : RegFile) : DumpWords :=
  ⟨(Reg.all.map fun r => readReg cfg r f).toArray, by simp [Reg.all]⟩

/-- `RESTORE d`: the plain store at every index (R246). -/
def restoreFile (d : DumpWords) (f : RegFile) : RegFile :=
  Reg.all.foldl (fun g r => storeReg r (d.get r.index) g) f

/-! The transactions but `EXEC`, on a state whose `pending` no longer holds them. -/

/-- `RD i` returns `x[i]` and changes no register (R220; 20_memory.md R77). -/
def performRd (i : Fin 64) (s : State) : State :=
  { s with reply := some (.word (readReg config (Reg.ofIndex i) s.file)) }

/-- `WR i, v` (R230). -/
def performWr (i : Fin 64) (v : Word) (s : State) : State :=
  { s with file := writeReg (Reg.ofIndex i) v s.file }

/-- `RESET`: zero the entire register file (70_reset_and_hazards.md R270). -/
def performReset (s : State) : State := { s with file := .zero }

/-- `DUMP` (R245). -/
def performDump (s : State) : State := { s with reply := some (.words (dumpFile config s.file)) }

/-- `RESTORE d` (R246). -/
def performRestore (d : DumpWords) (s : State) : State := { s with file := restoreFile d s.file }

/-- Take the oldest transaction from the caller's list, leaving `rest`: a transaction starts with
nothing returned yet. -/
def State.take (s : State) (rest : List Transaction) : State :=
  { s with pending := rest, reply := none }

end Sys2Proof.Machine
end

