-- ==== Sys2Proof/Machine/Engine.lean ====
section
/-!
DEFINITION. The matrix-vector engine and the interpolation step (40_primitives.md R126 to R128).
Operands are arguments, so they are read before any lane writes (R126; 70_reset_and_hazards.md R277).
-/

namespace Sys2Proof.Machine

/-- The three sums of a lane in the order they are formed, each as it stands BEFORE its range
check: `t + M[i][1]*V[1]`, then with `M[i][2]*V[2]` added to the checked value, then with
`M[i][3]*V[3]` (R126). -/
def laneSums (cfg : Config) (t : Int) (row vec : Triple Half) : Triple Int :=
  let s1 := t + row.l1.toInt * vec.l1.toInt
  let s2 := wideValue cfg s1 + row.l2.toInt * vec.l2.toInt
  let s3 := wideValue cfg s2 + row.l3.toInt * vec.l3.toInt
  ⟨s1, s2, s3⟩

/-- The flags of the three range checks of a lane (R126). -/
def sumFlags (l : Lane) (a : Triple Int) (w : Flags) : Flags :=
  wideFlags l a.l3 (wideFlags l a.l2 (wideFlags l a.l1 w))

/-- The three range checks of a lane and the store of its third sum into `MACi` (R126). -/
def storeSums (cfg : Config) (l : Lane) (a : Triple Int) (sh : Nat) (f : RegFile) : RegFile :=
  { f with mac := f.mac.set l (macWord cfg a.l3 sh), flag := sumFlags l a f.flag }

/-- One lane of `transform` (R126). -/
def transformLane (cfg : Config) (m : Mat3) (t : Option (Triple Word)) (vec : Triple Half)
    (sh : Nat) (lm : Bool) (l : Lane) (f : RegFile) : RegFile :=
  setIrFromMac l lm (storeSums cfg l (laneSums cfg (promote t l) (m.get l) vec) sh f)

/-- `transform(M, T, V, sh, lm)` (R126). -/
def transform (cfg : Config) (m : Mat3) (t : Option (Triple Word)) (vec : Triple Half) (sh : Nat)
    (lm : Bool) (f : RegFile) : RegFile :=
  eachLane (transformLane cfg m t vec sh lm) f

/-- The discarded first step of a lane of `transform_fc`: `FC[i]*4096 + M[i][1]*V[1]` as it stands
before its range check (R127). -/
def fcSum (fc : Triple Word) (m : Mat3) (vec : Triple Half) (l : Lane) : Int :=
  shl (fc.get l).toInt 12 + (m.get l).l1.toInt * vec.l1.toInt

/-- The flags of the discarded first step: its range check, and the saturation of the shifted value
into IR with `lm` forced to 0 (R127). -/
def fcFlags (cfg : Config) (s1 : Int) (sh : Nat) (l : Lane) (w : Flags) : Flags :=
  irFlags l (sext 32 (asr (wideValue cfg s1) sh)) false (wideFlags l s1 w)

/-- The last two products of a lane: the second as it stands before its range check, and the third
added to the checked second (R127). -/
def lastTwo (cfg : Config) (row vec : Triple Half) : Int × Int :=
  let s2 := row.l2.toInt * vec.l2.toInt
  (s2, wideValue cfg s2 + row.l3.toInt * vec.l3.toInt)

/-- One lane of `transform_fc`: the first step sets flags only, since `IRi` is overwritten; the
result is the last two products (R127). -/
def transformFcLane (cfg : Config) (m : Mat3) (fc : Triple Word) (vec : Triple Half) (sh : Nat)
    (lm : Bool) (l : Lane) (f : RegFile) : RegFile :=
  let a := lastTwo cfg (m.get l) vec
  setMacIr cfg l a.2 sh lm
    { f with flag := wideFlags l a.1 (fcFlags cfg (fcSum fc m vec l) sh l f.flag) }

/-- `transform_fc(M, V, sh, lm)` (R127). -/
def transformFc (cfg : Config) (m : Mat3) (fc : Triple Word) (vec : Triple Half) (sh : Nat)
    (lm : Bool) (f : RegFile) : RegFile :=
  eachLane (transformFcLane cfg m fc vec sh lm) f

/-- Pass one of `interpolate`: the difference to the far colour, `lm` forced to 0 (R128). -/
def interpolateDiff (cfg : Config) (start : Triple Int) (sh : Nat) (l : Lane) (f : RegFile) :
    RegFile :=
  setMacIr cfg l (shl (f.fc.get l).toInt 12 - start.get l) sh false f

/-- Pass two of `interpolate`: the difference times IR0, plus the start value (R128). -/
def interpolateBlend (cfg : Config) (start : Triple Int) (sh : Nat) (lm : Bool) (l : Lane)
    (f : RegFile) : RegFile :=
  setMacIr cfg l ((f.ir.get l).toInt * f.ir0.toInt + start.get l) sh lm f

/-- `interpolate(in, sh, lm)`: pass one over all lanes before pass two (R128, R277). -/
def interpolate (cfg : Config) (start : Triple Int) (sh : Nat) (lm : Bool) (f : RegFile) :
    RegFile :=
  eachLane (interpolateBlend cfg start sh lm) (eachLane (interpolateDiff cfg start sh) f)

end Sys2Proof.Machine
end

