-- ==== Sys2Proof/Machine/DepthCue.lean ====
section
/-! DEFINITION. Depth cue and interpolation: DPCS DPCT DCPL INTPL GPF GPL
(43_depthcue_interp.md R180 to R186). -/

namespace Sys2Proof.Machine

/-- `depth_cue(c, sh, lm)` (R186); the code byte of `c` is not used. -/
def depthCue (cfg : Config) (c : Colour) (sh : Nat) (lm : Bool) (f : RegFile) : RegFile :=
  pushRgb (interpolate cfg ⟨shl c.r.toNat 16, shl c.g.toNat 16, shl c.b.toNat 16⟩ sh lm f)

/-- One iteration of DPCT: the source colour is `RGB0` as it is now (R181). -/
def depthCueOldest (cfg : Config) (sh : Nat) (lm : Bool) (f : RegFile) : RegFile :=
  depthCue cfg f.rgb0 sh lm f

/-- The interpolated vector of INTPL: IR1..IR3 times 4096 (R183). -/
def irScaled (f : RegFile) : Triple Int where
  l1 := shl f.ir.l1.toInt 12
  l2 := shl f.ir.l2.toInt 12
  l3 := shl f.ir.l3.toInt 12

/-- One lane of GPF (R184). -/
def gpfLane (cfg : Config) (sh : Nat) (lm : Bool) (l : Lane) (f : RegFile) : RegFile :=
  setMacIr cfg l ((f.ir.get l).toInt * f.ir0.toInt) sh lm f

/-- One lane of GPL: the stored MAC, shifted left by the instruction's shift, is the base (R185). -/
def gplLane (cfg : Config) (sh : Nat) (lm : Bool) (l : Lane) (f : RegFile) : RegFile :=
  setMacIr cfg l (shl (f.mac.get l).toInt sh + (f.ir.get l).toInt * f.ir0.toInt) sh lm f

/-- DPCS, depth cue single (R180). -/
def execDpcs (sf lm : Bool) (s : State) : Host.Outcome State Fault Refusal :=
  runDefined config (fun f => depthCue config f.rgbc (shiftOf sf) lm f) s

/-- DPCT, depth cue triple (R181). -/
def execDpct (sf lm : Bool) (s : State) : Host.Outcome State Fault Refusal :=
  runDefined config (fun f =>
    depthCueOldest config (shiftOf sf) lm
      (depthCueOldest config (shiftOf sf) lm
        (depthCueOldest config (shiftOf sf) lm f))) s

/-- DCPL, depth cue of a lit colour (R182). -/
def execDcpl (sf lm : Bool) (s : State) : Host.Outcome State Fault Refusal :=
  runDefined config (fun f => pushRgb (interpolate config (colorMul f) (shiftOf sf) lm f)) s

/-- INTPL, interpolate the IR vector toward the far colour (R183). -/
def execIntpl (sf lm : Bool) (s : State) : Host.Outcome State Fault Refusal :=
  runDefined config (fun f => pushRgb (interpolate config (irScaled f) (shiftOf sf) lm f)) s

/-- GPF, general-purpose interpolation (R184). -/
def execGpf (sf lm : Bool) (s : State) : Host.Outcome State Fault Refusal :=
  runDefined config (fun f => pushRgb (eachLane (gpfLane config (shiftOf sf) lm) f)) s

/-- GPL, general-purpose interpolation with base (R185). -/
def execGpl (sf lm : Bool) (s : State) : Host.Outcome State Fault Refusal :=
  runDefined config (fun f => pushRgb (eachLane (gplLane config (shiftOf sf) lm) f)) s

end Sys2Proof.Machine
end

