-- ==== Sys2Proof/Machine/Geometry.lean ====
section
/-! DEFINITION. Geometry helpers: NCLIP AVSZ3 AVSZ4 SQR OP (44_geometry.md R200 to R204). -/

namespace Sys2Proof.Machine

/-- The exact sum of NCLIP over the three screen points (R200). -/
def nclipSum (p0 p1 p2 : ScreenXY) : Int :=
  p0.x.toInt * p1.y.toInt + p1.x.toInt * p2.y.toInt + p2.x.toInt * p0.y.toInt
    - p0.x.toInt * p2.y.toInt - p1.x.toInt * p0.y.toInt - p2.x.toInt * p1.y.toInt

/-- The common end of AVSZ3 and AVSZ4: MAC0 whole, OTZ from the exact value shifted by 12 (R201). -/
def storeAverage (r : Int) (f : RegFile) : RegFile := setOtz (asr r 12) (setMac0 r f)

/-- The exact product of AVSZ3 (R201). -/
def avsz3Product (f : RegFile) : Int :=
  f.zsf3.toInt * (f.sz1.toNat + f.sz2.toNat + f.sz3.toNat)

/-- The exact product of AVSZ4 (R202). -/
def avsz4Product (f : RegFile) : Int :=
  f.zsf4.toInt * (f.sz0.toNat + f.sz1.toNat + f.sz2.toNat + f.sz3.toNat)

/-- One lane of SQR; it reads only its own IR (R203). -/
def sqrLane (cfg : Config) (sh : Nat) (lm : Bool) (l : Lane) (f : RegFile) : RegFile :=
  setMacIr cfg l ((f.ir.get l).toInt * (f.ir.get l).toInt) sh lm f

/-- The cross product `D × IR` of OP (R204). -/
def crossProduct (d a : Triple Half) : Triple Int where
  l1 := a.l3.toInt * d.l2.toInt - a.l2.toInt * d.l3.toInt
  l2 := a.l1.toInt * d.l3.toInt - a.l3.toInt * d.l1.toInt
  l3 := a.l2.toInt * d.l1.toInt - a.l1.toInt * d.l2.toInt

/-- The diagonal `(RT11, RT22, RT33)` of OP (R204). -/
def rtDiagonal (f : RegFile) : Triple Half := ⟨f.rt.l1.l1, f.rt.l2.l2, f.rt.l3.l3⟩

/-- `OP`: all six operands are read before any lane writes (R204). -/
def outerProduct (cfg : Config) (sh : Nat) (lm : Bool) (f : RegFile) : RegFile :=
  eachLane (fun l => setMacIr cfg l ((crossProduct (rtDiagonal f) f.ir).get l) sh lm) f

/-- NCLIP, normal clipping (R200). -/
def execNclip (s : State) : Host.Outcome State Fault Refusal :=
  runDefined config (fun f => setMac0 (nclipSum f.sxy0 f.sxy1 f.sxy2) f) s

/-- AVSZ3, average of three Z values (R201). -/
def execAvsz3 (s : State) : Host.Outcome State Fault Refusal :=
  runDefined config (fun f => storeAverage (avsz3Product f) f) s

/-- AVSZ4, average of four Z values (R202). -/
def execAvsz4 (s : State) : Host.Outcome State Fault Refusal :=
  runDefined config (fun f => storeAverage (avsz4Product f) f) s

/-- SQR, square of the IR vector (R203). -/
def execSqr (sf lm : Bool) (s : State) : Host.Outcome State Fault Refusal :=
  runDefined config (eachLane (sqrLane config (shiftOf sf) lm)) s

/-- OP, outer product (R204). -/
def execOp (sf lm : Bool) (s : State) : Host.Outcome State Fault Refusal :=
  runDefined config (outerProduct config (shiftOf sf) lm) s

end Sys2Proof.Machine
end

