-- ==== Sys2Proof/Machine/Lighting.lean ====
section
/-! DEFINITION. Normal-vector lighting and colour: NCS NCT NCCS NCCT NCDS NCDT CC CDP
(42_lighting.md R160 to R169). -/

namespace Sys2Proof.Machine

/-- The three kinds of `colour_stage` (R168). -/
inductive ColourKind
  | plain
  | colour
  | depth
deriving DecidableEq, Repr

/-- The middle of `colour_stage`: the colour multiply of the `colour` kind, the colour multiply and
depth cue of the `depth` kind. `color_mul` is evaluated once, before lane 1 is rewritten (R168). -/
def colourTint (cfg : Config) (kind : ColourKind) (sh : Nat) (lm : Bool) (f : RegFile) : RegFile :=
  match kind with
  | .plain => f
  | .colour => eachLane (fun l => setMacIr cfg l ((colorMul f).get l) sh lm) f
  | .depth => interpolate cfg (colorMul f) sh lm f

/-- `colour_stage(kind, sh, lm)` (R168). -/
def colourStage (cfg : Config) (kind : ColourKind) (sh : Nat) (lm : Bool) (f : RegFile) : RegFile :=
  pushRgb (colourTint cfg kind sh lm (transform cfg f.lcm (some f.bk) f.ir sh lm f))

/-- `normal_stage(V, kind, sh, lm)` (R169). -/
def normalStage (cfg : Config) (vec : Triple Half) (kind : ColourKind) (sh : Nat) (lm : Bool)
    (f : RegFile) : RegFile :=
  colourStage cfg kind sh lm (transform cfg f.llm none vec sh lm f)

/-- `normal_stage` for `V0`, `V1`, `V2` in this order: the triple variants (R161, R163, R165). -/
def normalStage3 (cfg : Config) (kind : ColourKind) (sh : Nat) (lm : Bool) (f : RegFile) : RegFile :=
  normalStage cfg f.v2 kind sh lm
    (normalStage cfg f.v1 kind sh lm (normalStage cfg f.v0 kind sh lm f))

/-- NCS, normal colour, single (R160). -/
def execNcs (sf lm : Bool) (s : State) : Host.Outcome State Fault Refusal :=
  runDefined config (fun f => normalStage config f.v0 .plain (shiftOf sf) lm f) s

/-- NCT, normal colour, triple (R161). -/
def execNct (sf lm : Bool) (s : State) : Host.Outcome State Fault Refusal :=
  runDefined config (normalStage3 config .plain (shiftOf sf) lm) s

/-- NCCS, normal colour colour, single (R162). -/
def execNccs (sf lm : Bool) (s : State) : Host.Outcome State Fault Refusal :=
  runDefined config (fun f => normalStage config f.v0 .colour (shiftOf sf) lm f) s

/-- NCCT, normal colour colour, triple (R163). -/
def execNcct (sf lm : Bool) (s : State) : Host.Outcome State Fault Refusal :=
  runDefined config (normalStage3 config .colour (shiftOf sf) lm) s

/-- NCDS, normal colour depth cue, single (R164). -/
def execNcds (sf lm : Bool) (s : State) : Host.Outcome State Fault Refusal :=
  runDefined config (fun f => normalStage config f.v0 .depth (shiftOf sf) lm f) s

/-- NCDT, normal colour depth cue, triple (R165). -/
def execNcdt (sf lm : Bool) (s : State) : Host.Outcome State Fault Refusal :=
  runDefined config (normalStage3 config .depth (shiftOf sf) lm) s

/-- CC, colour colour: the light intensity is IR1..IR3 (R166). -/
def execCc (sf lm : Bool) (s : State) : Host.Outcome State Fault Refusal :=
  runDefined config (colourStage config .colour (shiftOf sf) lm) s

/-- CDP, colour depth cue (R167). -/
def execCdp (sf lm : Bool) (s : State) : Host.Outcome State Fault Refusal :=
  runDefined config (colourStage config .depth (shiftOf sf) lm) s

end Sys2Proof.Machine
end

