-- ==== Sys2Proof/Machine/Mvmva.lean ====
section
/-! DEFINITION. MVMVA (45_mvmva_reserved.md R210 to R214). -/

namespace Sys2Proof.Machine

/-- The handler of MVMVA: `cv = 2` has the special behaviour of R213, every other selector is
`transform` (R210). -/
def mvmva (cfg : Config) (sh : Nat) (mx : MatrixSel) (v : VectorSel) (cv : TransSel) (lm : Bool)
    (f : RegFile) : RegFile :=
  match cv with
  | .fc => transformFc cfg (matrixOperand f mx) f.fc (vectorOperand f v) sh lm f
  | cv => transform cfg (matrixOperand f mx) (translationOperand f cv) (vectorOperand f v) sh lm f

/-- MVMVA, multiply vector by matrix and add vector (R210). -/
def execMvmva (sf : Bool) (mx : MatrixSel) (v : VectorSel) (cv : TransSel) (lm : Bool)
    (s : State) : Host.Outcome State Fault Refusal :=
  runDefined config (mvmva config (shiftOf sf) mx v cv lm) s

end Sys2Proof.Machine
end

