-- ==== Sys2Proof/Machine/Projection.lean ====
section
/-! DEFINITION. RTPS and RTPT (41_projection.md R150 to R152). -/

namespace Sys2Proof.Machine

/-- The two IR3 lines of `rtp`. Under `RTP_IR3_QUIRK` the flag is decided on `zs` with the `lm = 0`
bounds and the value is `MAC3` clamped under `lm`; otherwise `set_ir(3, MAC3, lm)` (R152, note 7). -/
def rtpStoreIr3 (cfg : Config) (zs : Int) (lm : Bool) (f : RegFile) : RegFile :=
  { f with
    ir := f.ir.set .l3 (irHalf f.mac.l3.toInt lm)
    flag := if cfg.rtpIr3Quirk then raiseIf (zs < -0x8000 ∨ zs > 0x7FFF) .ir3Sat f.flag
            else irFlags .l3 f.mac.l3.toInt lm f.flag }

/-- The sums of a lane of `rtp` (R152), as of `transform(RT, TR, V, ..)`. -/
def rtpSums (cfg : Config) (f : RegFile) (vec : Triple Half) (l : Lane) : Triple Int :=
  laneSums cfg (promote (some f.tr) l) (f.rt.get l) vec

/-- `zs`: lane 3's wide value shifted by 12 whatever `sf` is (R152, note 2). -/
def rtpScreenZ (cfg : Config) (f : RegFile) (vec : Triple Half) : Int :=
  asr (wideValue cfg (rtpSums cfg f vec .l3).l3) 12

/-- The first half of `rtp`: MAC1..3, then IR1, IR2, IR3, then the screen Z push (R152). -/
def rtpRotate (cfg : Config) (vec : Triple Half) (sh : Nat) (lm : Bool) (f : RegFile) : RegFile :=
  let zs := rtpScreenZ cfg f vec
  pushSz zs
    (rtpStoreIr3 cfg zs lm
      (setIrFromMac .l2 lm
        (setIrFromMac .l1 lm
          (eachLane (fun l => storeSums cfg l (rtpSums cfg f vec l) sh) f))))

/-- `sx` and `sy` of `rtp`: the quotient times IR1 or IR2 plus the screen offset (R152). -/
def screenSum (q : Int) (ir : Half) (offset : Word) : Int := q * ir.toInt + offset.toInt

/-- The flags of `check_mac0(sx)` and `check_mac0(sy)` (R152). -/
def rtpCheckScreen (sx sy : Int) (f : RegFile) : RegFile :=
  { f with flag := mac0Flags sy (mac0Flags sx f.flag) }

/-- The screen coordinates of `rtp` from the quotient `q` (R152). -/
def rtpScreen (q : Int) (f : RegFile) : RegFile :=
  let sx := screenSum q f.ir.l1 f.ofx
  let sy := screenSum q f.ir.l2 f.ofy
  pushSxy (sext 32 (asr sx 16)) (sext 32 (asr sy 16)) (rtpCheckScreen sx sy f)

/-- `d` of `rtp`, the depth-cue sum (R152). -/
def depthSum (q : Int) (f : RegFile) : Int := q * f.dqa.toInt + f.dqb.toInt

/-- The depth cue of the last vertex of `rtp` (R152). -/
def rtpDepthCue (q : Int) (f : RegFile) : RegFile :=
  setIr0 (asr (depthSum q f) 12) (setMac0 (depthSum q f) f)

/-- The quotient of `rtp` in a file whose screen Z is pushed: `divide(H, SZ3)`, `H` unsigned (R152,
note 4). -/
def rtpQuotient (cfg : Config) (f : RegFile) : Nat := divideValue cfg f.h.toNat f.sz3.toNat

/-- The flag of `divide(H, SZ3)` (R124, R152). -/
def rtpDivideFlag (f : RegFile) : RegFile :=
  { f with flag := divideFlag f.h.toNat f.sz3.toNat f.flag }

/-- `rtp(V, sh, lm, last)` from the divide on, in a file whose screen Z is pushed (R152). -/
def rtpProject (cfg : Config) (last : Bool) (f : RegFile) : RegFile :=
  let q : Int := rtpQuotient cfg f
  let f := rtpScreen q (rtpDivideFlag f)
  if last then rtpDepthCue q f else f

/-- `rtp(V, sh, lm, last)` (R152). -/
def rtp (cfg : Config) (vec : Triple Half) (sh : Nat) (lm last : Bool) (f : RegFile) : RegFile :=
  rtpProject cfg last (rtpRotate cfg vec sh lm f)

/-- RTPS, rotate, translate and perspective-transform a single vertex (R150). -/
def execRtps (sf lm : Bool) (s : State) : Host.Outcome State Fault Refusal :=
  runDefined config (fun f => rtp config f.v0 (shiftOf sf) lm true f) s

/-- RTPT, the same for three vertices; the last does the depth cue (R151). -/
def execRtpt (sf lm : Bool) (s : State) : Host.Outcome State Fault Refusal :=
  runDefined config (fun f =>
    rtp config f.v2 (shiftOf sf) lm true
      (rtp config f.v1 (shiftOf sf) lm false
        (rtp config f.v0 (shiftOf sf) lm false f))) s

end Sys2Proof.Machine
end

