-- ==== Sys2Proof/Machine/Reserved.lean ====
section
/-!
DEFINITION. The 42 reserved function codes (45_mvmva_reserved.md R215): "changes nothing: every
register, FLAG included, keeps its value, and the transaction completes normally".
-/

namespace Sys2Proof.Machine

/-- `EXEC` of a reserved function code under `RESERVED_FUNCTION` (R215); the FLAG prologue and
epilogue do not run. -/
def runReserved (cfg : Config) (s : State) : Host.Outcome State Fault Refusal :=
  match cfg.reservedFunction with
  | .nop => .next s

/-- Function code 0x00 (R215). -/
def execReserved00 (s : State) : Host.Outcome State Fault Refusal := runReserved config s
/-- Function code 0x02 (R215). -/
def execReserved02 (s : State) : Host.Outcome State Fault Refusal := runReserved config s
/-- Function code 0x03 (R215). -/
def execReserved03 (s : State) : Host.Outcome State Fault Refusal := runReserved config s
/-- Function code 0x04 (R215). -/
def execReserved04 (s : State) : Host.Outcome State Fault Refusal := runReserved config s
/-- Function code 0x05 (R215). -/
def execReserved05 (s : State) : Host.Outcome State Fault Refusal := runReserved config s
/-- Function code 0x07 (R215). -/
def execReserved07 (s : State) : Host.Outcome State Fault Refusal := runReserved config s
/-- Function code 0x08 (R215). -/
def execReserved08 (s : State) : Host.Outcome State Fault Refusal := runReserved config s
/-- Function code 0x09 (R215). -/
def execReserved09 (s : State) : Host.Outcome State Fault Refusal := runReserved config s
/-- Function code 0x0A (R215). -/
def execReserved0A (s : State) : Host.Outcome State Fault Refusal := runReserved config s
/-- Function code 0x0B (R215). -/
def execReserved0B (s : State) : Host.Outcome State Fault Refusal := runReserved config s
/-- Function code 0x0D (R215). -/
def execReserved0D (s : State) : Host.Outcome State Fault Refusal := runReserved config s
/-- Function code 0x0E (R215). -/
def execReserved0E (s : State) : Host.Outcome State Fault Refusal := runReserved config s
/-- Function code 0x0F (R215). -/
def execReserved0F (s : State) : Host.Outcome State Fault Refusal := runReserved config s
/-- Function code 0x15 (R215). -/
def execReserved15 (s : State) : Host.Outcome State Fault Refusal := runReserved config s
/-- Function code 0x17 (R215). -/
def execReserved17 (s : State) : Host.Outcome State Fault Refusal := runReserved config s
/-- Function code 0x18 (R215). -/
def execReserved18 (s : State) : Host.Outcome State Fault Refusal := runReserved config s
/-- Function code 0x19 (R215). -/
def execReserved19 (s : State) : Host.Outcome State Fault Refusal := runReserved config s
/-- Function code 0x1A (R215). -/
def execReserved1A (s : State) : Host.Outcome State Fault Refusal := runReserved config s
/-- Function code 0x1D (R215). -/
def execReserved1D (s : State) : Host.Outcome State Fault Refusal := runReserved config s
/-- Function code 0x1F (R215). -/
def execReserved1F (s : State) : Host.Outcome State Fault Refusal := runReserved config s
/-- Function code 0x21 (R215). -/
def execReserved21 (s : State) : Host.Outcome State Fault Refusal := runReserved config s
/-- Function code 0x22 (R215). -/
def execReserved22 (s : State) : Host.Outcome State Fault Refusal := runReserved config s
/-- Function code 0x23 (R215). -/
def execReserved23 (s : State) : Host.Outcome State Fault Refusal := runReserved config s
/-- Function code 0x24 (R215). -/
def execReserved24 (s : State) : Host.Outcome State Fault Refusal := runReserved config s
/-- Function code 0x25 (R215). -/
def execReserved25 (s : State) : Host.Outcome State Fault Refusal := runReserved config s
/-- Function code 0x26 (R215). -/
def execReserved26 (s : State) : Host.Outcome State Fault Refusal := runReserved config s
/-- Function code 0x27 (R215). -/
def execReserved27 (s : State) : Host.Outcome State Fault Refusal := runReserved config s
/-- Function code 0x2B (R215). -/
def execReserved2B (s : State) : Host.Outcome State Fault Refusal := runReserved config s
/-- Function code 0x2C (R215). -/
def execReserved2C (s : State) : Host.Outcome State Fault Refusal := runReserved config s
/-- Function code 0x2F (R215). -/
def execReserved2F (s : State) : Host.Outcome State Fault Refusal := runReserved config s
/-- Function code 0x31 (R215). -/
def execReserved31 (s : State) : Host.Outcome State Fault Refusal := runReserved config s
/-- Function code 0x32 (R215). -/
def execReserved32 (s : State) : Host.Outcome State Fault Refusal := runReserved config s
/-- Function code 0x33 (R215). -/
def execReserved33 (s : State) : Host.Outcome State Fault Refusal := runReserved config s
/-- Function code 0x34 (R215). -/
def execReserved34 (s : State) : Host.Outcome State Fault Refusal := runReserved config s
/-- Function code 0x35 (R215). -/
def execReserved35 (s : State) : Host.Outcome State Fault Refusal := runReserved config s
/-- Function code 0x36 (R215). -/
def execReserved36 (s : State) : Host.Outcome State Fault Refusal := runReserved config s
/-- Function code 0x37 (R215). -/
def execReserved37 (s : State) : Host.Outcome State Fault Refusal := runReserved config s
/-- Function code 0x38 (R215). -/
def execReserved38 (s : State) : Host.Outcome State Fault Refusal := runReserved config s
/-- Function code 0x39 (R215). -/
def execReserved39 (s : State) : Host.Outcome State Fault Refusal := runReserved config s
/-- Function code 0x3A (R215). -/
def execReserved3A (s : State) : Host.Outcome State Fault Refusal := runReserved config s
/-- Function code 0x3B (R215). -/
def execReserved3B (s : State) : Host.Outcome State Fault Refusal := runReserved config s
/-- Function code 0x3C (R215). -/
def execReserved3C (s : State) : Host.Outcome State Fault Refusal := runReserved config s

end Sys2Proof.Machine
end

