-- ==== Sys2Proof/Machine/Dispatch.lean ====
section
/-! DEFINITION. The dispatcher: one arm per instruction (30_encoding.md R90, R94, R96). -/

namespace Sys2Proof.Machine

def exec (i : Instr) (s : State) : Host.Outcome State Fault Refusal :=
  match i with
  | .reserved00 => Sys2Proof.Machine.execReserved00 s
  | .rtps sf lm => Sys2Proof.Machine.execRtps sf lm s
  | .reserved02 => Sys2Proof.Machine.execReserved02 s
  | .reserved03 => Sys2Proof.Machine.execReserved03 s
  | .reserved04 => Sys2Proof.Machine.execReserved04 s
  | .reserved05 => Sys2Proof.Machine.execReserved05 s
  | .nclip => Sys2Proof.Machine.execNclip s
  | .reserved07 => Sys2Proof.Machine.execReserved07 s
  | .reserved08 => Sys2Proof.Machine.execReserved08 s
  | .reserved09 => Sys2Proof.Machine.execReserved09 s
  | .reserved0A => Sys2Proof.Machine.execReserved0A s
  | .reserved0B => Sys2Proof.Machine.execReserved0B s
  | .op sf lm => Sys2Proof.Machine.execOp sf lm s
  | .reserved0D => Sys2Proof.Machine.execReserved0D s
  | .reserved0E => Sys2Proof.Machine.execReserved0E s
  | .reserved0F => Sys2Proof.Machine.execReserved0F s
  | .dpcs sf lm => Sys2Proof.Machine.execDpcs sf lm s
  | .intpl sf lm => Sys2Proof.Machine.execIntpl sf lm s
  | .mvmva sf mx v cv lm => Sys2Proof.Machine.execMvmva sf mx v cv lm s
  | .ncds sf lm => Sys2Proof.Machine.execNcds sf lm s
  | .cdp sf lm => Sys2Proof.Machine.execCdp sf lm s
  | .reserved15 => Sys2Proof.Machine.execReserved15 s
  | .ncdt sf lm => Sys2Proof.Machine.execNcdt sf lm s
  | .reserved17 => Sys2Proof.Machine.execReserved17 s
  | .reserved18 => Sys2Proof.Machine.execReserved18 s
  | .reserved19 => Sys2Proof.Machine.execReserved19 s
  | .reserved1A => Sys2Proof.Machine.execReserved1A s
  | .nccs sf lm => Sys2Proof.Machine.execNccs sf lm s
  | .cc sf lm => Sys2Proof.Machine.execCc sf lm s
  | .reserved1D => Sys2Proof.Machine.execReserved1D s
  | .ncs sf lm => Sys2Proof.Machine.execNcs sf lm s
  | .reserved1F => Sys2Proof.Machine.execReserved1F s
  | .nct sf lm => Sys2Proof.Machine.execNct sf lm s
  | .reserved21 => Sys2Proof.Machine.execReserved21 s
  | .reserved22 => Sys2Proof.Machine.execReserved22 s
  | .reserved23 => Sys2Proof.Machine.execReserved23 s
  | .reserved24 => Sys2Proof.Machine.execReserved24 s
  | .reserved25 => Sys2Proof.Machine.execReserved25 s
  | .reserved26 => Sys2Proof.Machine.execReserved26 s
  | .reserved27 => Sys2Proof.Machine.execReserved27 s
  | .sqr sf lm => Sys2Proof.Machine.execSqr sf lm s
  | .dcpl sf lm => Sys2Proof.Machine.execDcpl sf lm s
  | .dpct sf lm => Sys2Proof.Machine.execDpct sf lm s
  | .reserved2B => Sys2Proof.Machine.execReserved2B s
  | .reserved2C => Sys2Proof.Machine.execReserved2C s
  | .avsz3 => Sys2Proof.Machine.execAvsz3 s
  | .avsz4 => Sys2Proof.Machine.execAvsz4 s
  | .reserved2F => Sys2Proof.Machine.execReserved2F s
  | .rtpt sf lm => Sys2Proof.Machine.execRtpt sf lm s
  | .reserved31 => Sys2Proof.Machine.execReserved31 s
  | .reserved32 => Sys2Proof.Machine.execReserved32 s
  | .reserved33 => Sys2Proof.Machine.execReserved33 s
  | .reserved34 => Sys2Proof.Machine.execReserved34 s
  | .reserved35 => Sys2Proof.Machine.execReserved35 s
  | .reserved36 => Sys2Proof.Machine.execReserved36 s
  | .reserved37 => Sys2Proof.Machine.execReserved37 s
  | .reserved38 => Sys2Proof.Machine.execReserved38 s
  | .reserved39 => Sys2Proof.Machine.execReserved39 s
  | .reserved3A => Sys2Proof.Machine.execReserved3A s
  | .reserved3B => Sys2Proof.Machine.execReserved3B s
  | .reserved3C => Sys2Proof.Machine.execReserved3C s
  | .gpf sf lm => Sys2Proof.Machine.execGpf sf lm s
  | .gpl sf lm => Sys2Proof.Machine.execGpl sf lm s
  | .ncct sf lm => Sys2Proof.Machine.execNcct sf lm s

end Sys2Proof.Machine
end

