-- ==== Sys2Proof/Machine/Step.lean ====
section
/-!
DEFINITION. One step is one transaction (00_scope.md R15). The machine fetches nothing (10_state.md
R60): the instruction word is the argument of the caller's `EXEC`.
-/

namespace Sys2Proof.Machine

/-- One step: the oldest transaction the caller has issued, atomically (20_memory.md R76, R80). With
none issued the block takes no step of its own (00_scope.md R3) and nothing changes (log entry 1). -/
def step (s : State) : Host.Outcome State Fault Refusal :=
  match s.pending with
  | [] => .next s
  | .rd i :: rest => .next (performRd i (s.take rest))
  | .wr i v :: rest => .next (performWr i v (s.take rest))
  | .exec w :: rest => exec (decodeWord w) (s.take rest)
  | .reset :: rest => .next (performReset (s.take rest))
  | .dump :: rest => .next (performDump (s.take rest))
  | .restore d :: rest => .next (performRestore d (s.take rest))

/-- The host's question: the state in which the next step runs the word `w` of `nbits` bits. The
word is issued by the caller as the oldest waiting `EXEC`; nothing else changes (log entry 1). -/
def State.withFetchWord (s : State) (nbits w : Nat) : State :=
  { s with pending := .exec (BitVec.ofNat 32 (w % 2 ^ nbits)) :: s.pending }

end Sys2Proof.Machine
end

