-- ==== Sys2Proof/WellFormed.lean ====
section
/-!
DEFINITION. Well-formedness. Every field of an instruction is typed by the values its bits can
take, and no encoding is illegal (30_encoding.md R95), so every instruction is well-formed. What
can be ill-formed on this interface is the argument of `RESTORE`: 64 words "that no DUMP could
have produced" are outside the contract (46_register_access.md R246). The checks below say which
64 words a DUMP can produce.
-/

namespace Sys2Proof

/-- Every instruction of the type is one the dispatcher accepts (R95). -/
def Instr.wellFormed (_ : Instr) : Bool := true

namespace Dump

open Machine

/-- Index 15 mirrors index 14 (46_register_access.md R227). -/
def mirrorOk (d : DumpWords) : Bool := d[15] == d[14]

/-- The signed 16-bit fields read sign-extended (R222). -/
def signedOk (d : DumpWords) : Bool :=
  [d[1], d[3], d[5], d[8], d[9], d[10], d[11], d[36], d[44], d[52], d[59], d[61], d[62]].all
    fun w => w == readSigned (lo w)

/-- The unsigned 16-bit fields read zero-extended (R223). -/
def unsignedOk (d : DumpWords) : Bool :=
  [d[7], d[16], d[17], d[18], d[19]].all fun w => w == readUnsigned (lo w)

/-- `H` reads under `H_READ_SIGN_EXTENDS` (R224). -/
def hOk (cfg : Config) (d : DumpWords) : Bool := d[58] == readH cfg.hReadSignExtends (lo d[58])

/-- Indices 28 and 29 are the colour view of IR1..IR3 (R226). -/
def colourOk (d : DumpWords) : Bool :=
  d[28] == colourView ⟨lo d[9], lo d[10], lo d[11]⟩ && d[29] == d[28]

/-- `LZCR` holds a value in [0, 32] (10_state.md R34). -/
def lzcrOk (d : DumpWords) : Bool := decide (d[31].toNat ≤ 32)

/-- FLAG reads with bit 31 derived and bits 11:0 zero (R228). -/
def flagOk (d : DumpWords) : Bool := d[63] == flagView (flagStored d[63])

/-- 64 words that a DUMP can return (R245, R246). -/
def wellFormed (cfg : Config) (d : DumpWords) : Bool :=
  mirrorOk d && signedOk d && unsignedOk d && hOk cfg d && colourOk d && lzcrOk d && flagOk d

end Dump

end Sys2Proof
end

