-- ==== Sys2Proof/Safety.lean ====
section
/-!
DEFINITION. What claims about runs use: a run that never stops, the invariant of the leading-bit
pair, and the behaviours the source allows for a reserved function code.
-/

namespace Sys2Proof.Machine

/-- The machine takes `k` steps from `s` without a fault or a refusal. -/
def RunsFor (k : Nat) (s : State) : Prop := ∃ t, core.run k s = .next t

/-- `LZCR` is the count of the stored `LZCS`, or both are as reset leaves them (10_state.md R34;
70_reset_and_hazards.md R272). -/
abbrev LzPair (lzcs : Word) (lzcr : BitVec 6) : Prop :=
  lzcr = BitVec.ofNat 6 (signRun lzcs) ∨ (lzcs = 0 ∧ lzcr = 0)

/-- A `RESTORE` whose words hold a leading-bit pair that a `DUMP` of such a machine returns; every
other transaction is unconstrained. -/
abbrev Transaction.KeepsLzPair : Transaction → Prop
  | .restore d => LzPair d[30] (d[31].setWidth 6)
  | _ => True

/-- The invariant of the leading-bit pair: the file holds it, and so does every `RESTORE` the
caller still has waiting. -/
abbrev State.LzInv (s : State) : Prop :=
  LzPair s.file.lzcs s.file.lzcr ∧ ∀ t ∈ s.pending, t.KeepsLzPair

/-- The word with its function code replaced. -/
def withCode (w : Word) (fn : BitVec 6) : Word := w.extractLsb' 6 26 ++ fn

/-- The 22 defined function codes (30_encoding.md R94). -/
def definedCodes : List (BitVec 6) :=
  [0x01, 0x06, 0x0C, 0x10, 0x11, 0x12, 0x13, 0x14, 0x16, 0x1B, 0x1C]
    ++ [0x1E, 0x20, 0x28, 0x29, 0x2A, 0x2D, 0x2E, 0x30, 0x3D, 0x3E, 0x3F]

/-- What the source allows a reserved function code to do: nothing, or what one of the 22 defined
handlers does on the same word (45_mvmva_reserved.md R215; 93_implementation_defined.md part A).
A claim meant for silicon assumes this of a reserved word, not the machine's own no-op. -/
def ReservedAllowed (w : Word) (s t : State) : Prop :=
  t = s ∨ ∃ fn ∈ definedCodes, exec (decodeWord (withCode w fn)) s = .next t

end Sys2Proof.Machine
end

