-- ==== Sys2Proof/Certificates/Slice0/Obligations.lean ====
section
/-!
DEFINITION. The statements for the provers. The vocabulary comes first: it says in integers what the
rules say, apart from the operations the machine is built of. Each statement's docstring names the
rule it formalises; where a clause rests on a parameter of 00_scope.md R7 or on a convention of the
model, it names the log entry. "FLAG records exactly" rests on FLAG_CLEARED_AT_EXEC, log entry 7,
wherever it is said of an instruction; a MAC sum that leaves 44 bits keeps its low bits by
MAC123_WIDE_OVERFLOW, log entry 3. What a step does to the caller's list and to the reply is the
model's own, log entries 1, 2 and 15.
-/

namespace Sys2Proof.Claims

open Machine

/-! Arithmetic -/

/-- The low 32 bits. -/
def low32 (v : Int) : Word := BitVec.ofInt 32 v

/-- Bits 43:0 read as a signed number. -/
def low44 (v : Int) : Int := v.bmod (2 ^ 44)

/-- Shifted by `12 * sf`, toward minus infinity. -/
def scaled (sf : Bool) (v : Int) : Int := if sf then v / 4096 else v

/-- `v` held between two bounds. -/
def sat (least most v : Int) : Int := max least (min most v)

/-- `v` is beyond one of two bounds. -/
abbrev outside (least most v : Int) : Prop := v < least ∨ most < v

/-- A value above the 44-bit range. -/
abbrev above44 (v : Int) : Prop := 2 ^ 43 - 1 < v

/-- A value below the 44-bit range. -/
abbrev below44 (v : Int) : Prop := v < -2 ^ 43

/-- The lower bound of IR1..IR3 that `lm` selects. -/
def irMin (lm : Bool) : Int := if lm then 0 else -0x8000

/-- The three sums of a lane as they stand before each range check: a start value and three
products, the checked sum entering the next addition. -/
def partials (start a b c : Int) : List Int :=
  [start + a, low44 (start + a) + b, low44 (low44 (start + a) + b) + c]

/-! Transactions -/

/-- The state whose next step takes `x`, the caller having issued it before everything else. -/
def given (x : Transaction) (s : State) : State := { s with pending := x :: s.pending }

/-- The word `RD i` returns from a file. -/
def view (i : Fin 64) (f : RegFile) : Word := readReg config (Reg.ofIndex i) f

/-! Register files by index -/

/-- Two 16-bit fields in one word: index, low field, high field (R221). -/
def pairFields : List (Fin 64 × (RegFile → Half) × (RegFile → Half)) :=
  [[(0, (·.v0.l1), (·.v0.l2)), (2, (·.v1.l1), (·.v1.l2)), (4, (·.v2.l1), (·.v2.l2))],
    [(12, (·.sxy0.x), (·.sxy0.y)), (13, (·.sxy1.x), (·.sxy1.y)), (14, (·.sxy2.x), (·.sxy2.y))],
    [(32, (·.rt.l1.l1), (·.rt.l1.l2)), (33, (·.rt.l1.l3), (·.rt.l2.l1)),
      (34, (·.rt.l2.l2), (·.rt.l2.l3)), (35, (·.rt.l3.l1), (·.rt.l3.l2))],
    [(40, (·.llm.l1.l1), (·.llm.l1.l2)), (41, (·.llm.l1.l3), (·.llm.l2.l1)),
      (42, (·.llm.l2.l2), (·.llm.l2.l3)), (43, (·.llm.l3.l1), (·.llm.l3.l2))],
    [(48, (·.lcm.l1.l1), (·.lcm.l1.l2)), (49, (·.lcm.l1.l3), (·.lcm.l2.l1)),
      (50, (·.lcm.l2.l2), (·.lcm.l2.l3)), (51, (·.lcm.l3.l1), (·.lcm.l3.l2))]].flatten

/-- One signed 16-bit field (R222). -/
def signedFields : List (Fin 64 × (RegFile → Half)) :=
  [[(1, (·.v0.l3)), (3, (·.v1.l3)), (5, (·.v2.l3)), (8, (·.ir0)), (9, (·.ir.l1)), (10, (·.ir.l2)),
      (11, (·.ir.l3))],
    [(36, (·.rt.l3.l3)), (44, (·.llm.l3.l3)), (52, (·.lcm.l3.l3)), (59, (·.dqa)), (61, (·.zsf3)),
      (62, (·.zsf4))]].flatten

/-- One unsigned 16-bit field (R223). -/
def unsignedFields : List (Fin 64 × (RegFile → Half)) :=
  [(7, (·.otz)), (16, (·.sz0)), (17, (·.sz1)), (18, (·.sz2)), (19, (·.sz3))]

/-- One 32-bit field (R225, without LZCR and the colours). -/
def wordFields : List (Fin 64 × (RegFile → Word)) :=
  [[(23, (·.res1)), (24, (·.mac0)), (25, (·.mac.l1)), (26, (·.mac.l2)), (27, (·.mac.l3)),
      (30, (·.lzcs))],
    [(37, (·.tr.l1)), (38, (·.tr.l2)), (39, (·.tr.l3)), (45, (·.bk.l1)), (46, (·.bk.l2)),
      (47, (·.bk.l3))],
    [(53, (·.fc.l1)), (54, (·.fc.l2)), (55, (·.fc.l3)), (56, (·.ofx)), (57, (·.ofy)),
      (60, (·.dqb))]].flatten

/-- Four bytes (R225). -/
def colourFields : List (Fin 64 × (RegFile → Colour)) :=
  [(6, (·.rgbc)), (20, (·.rgb0)), (21, (·.rgb1)), (22, (·.rgb2))]

/-- A word whose bytes are a colour's: red lowest, code highest. -/
def ofColour (w : Word) (c : Colour) : Prop :=
  w.extractLsb' 0 8 = c.r ∧ w.extractLsb' 8 8 = c.g ∧ w.extractLsb' 16 8 = c.b ∧
    w.extractLsb' 24 8 = c.code

/-- What `RD i` returns after `WR i, v` on a file `f` (R244). -/
def roundTrip (i : Fin 64) (v : Word) (f : RegFile) : Word :=
  if i ∈ [1, 3, 5, 8, 9, 10, 11, 36, 44, 52, 58, 59, 61, 62] then (v.setWidth 16).signExtend 32
  else if i ∈ [7, 16, 17, 18, 19] then (v.setWidth 16).setWidth 32
  else if i = 28 then (v.setWidth 15).setWidth 32
  else if i = 29 then view 29 f
  else if i = 31 then view 31 f
  else if i = 63 then
    (v &&& 0x7FFFF000) ||| (if v &&& 0x7F87E000 ≠ 0 then 0x80000000 else 0)
  else v

/-- The indices whose word a write of index `i` can change: its own, the FIFO of 15, the sources of
28, the result of 30, and the derived indices 15, 28, 29 of a field written (R78). -/
def affected (i : Fin 64) : List (Fin 64) :=
  if i = 9 ∨ i = 10 ∨ i = 11 then [i, 28, 29]
  else if i = 14 then [14, 15]
  else if i = 15 then [12, 13, 14, 15]
  else if i = 28 then [9, 10, 11, 28, 29]
  else if i = 30 then [30, 31]
  else if i = 29 ∨ i = 31 then []
  else [i]

/-- A write of index `i` leaves the words of the other indices, the caller's list, and nothing
returned. -/
def wroteOnly (i : Fin 64) (s t : State) : Prop :=
  (∀ j, j ∉ affected i → view j t.file = view j s.file) ∧ t.pending = s.pending ∧ t.reply = none

/-- Every stored field 0 (R271). -/
def zeroFile : RegFile where
  v0 := ⟨0, 0, 0⟩
  v1 := ⟨0, 0, 0⟩
  v2 := ⟨0, 0, 0⟩
  rgbc := ⟨0, 0, 0, 0⟩
  otz := 0
  ir0 := 0
  ir := ⟨0, 0, 0⟩
  sxy0 := ⟨0, 0⟩
  sxy1 := ⟨0, 0⟩
  sxy2 := ⟨0, 0⟩
  sz0 := 0
  sz1 := 0
  sz2 := 0
  sz3 := 0
  rgb0 := ⟨0, 0, 0, 0⟩
  rgb1 := ⟨0, 0, 0, 0⟩
  rgb2 := ⟨0, 0, 0, 0⟩
  res1 := 0
  mac0 := 0
  mac := ⟨0, 0, 0⟩
  lzcs := 0
  lzcr := 0
  rt := ⟨⟨0, 0, 0⟩, ⟨0, 0, 0⟩, ⟨0, 0, 0⟩⟩
  tr := ⟨0, 0, 0⟩
  llm := ⟨⟨0, 0, 0⟩, ⟨0, 0, 0⟩, ⟨0, 0, 0⟩⟩
  bk := ⟨0, 0, 0⟩
  lcm := ⟨⟨0, 0, 0⟩, ⟨0, 0, 0⟩, ⟨0, 0, 0⟩⟩
  fc := ⟨0, 0, 0⟩
  ofx := 0
  ofy := 0
  h := 0
  dqa := 0
  dqb := 0
  zsf3 := 0
  zsf4 := 0
  flag := 0

/-! Instructions -/

/-- Function code and instruction of the 21 rows of R94 without selectors, with the fields `sf` and
`lm` each honours. -/
def codeMap : List (BitVec 6 × (Bool → Bool → Instr)) :=
  [[(0x01, .rtps), (0x06, fun _ _ => .nclip), (0x0C, .op), (0x10, .dpcs), (0x11, .intpl)],
    [(0x13, .ncds), (0x14, .cdp), (0x16, .ncdt), (0x1B, .nccs), (0x1C, .cc), (0x1E, .ncs)],
    [(0x20, .nct), (0x28, .sqr), (0x29, .dcpl), (0x2A, .dpct), (0x2D, fun _ _ => .avsz3)],
    [(0x2E, fun _ _ => .avsz4), (0x30, .rtpt), (0x3D, .gpf), (0x3E, .gpl), (0x3F, .ncct)]].flatten

/-- The reserved function codes (R96). -/
def reservedCodes : List (BitVec 6) :=
  [[0x00, 0x02, 0x03, 0x04, 0x05, 0x07, 0x08, 0x09, 0x0A, 0x0B, 0x0D, 0x0E, 0x0F, 0x15],
    [0x17, 0x18, 0x19, 0x1A, 0x1D, 0x1F, 0x21, 0x22, 0x23, 0x24, 0x25, 0x26, 0x27, 0x2B],
    [0x2C, 0x2F, 0x31, 0x32, 0x33, 0x34, 0x35, 0x36, 0x37, 0x38, 0x39, 0x3A, 0x3B, 0x3C]].flatten

/-- The reserved instructions (R96). -/
def reservedInstrs : List Instr :=
  [[.reserved00, .reserved02, .reserved03, .reserved04, .reserved05, .reserved07, .reserved08],
    [.reserved09, .reserved0A, .reserved0B, .reserved0D, .reserved0E, .reserved0F, .reserved15],
    [.reserved17, .reserved18, .reserved19, .reserved1A, .reserved1D, .reserved1F, .reserved21],
    [.reserved22, .reserved23, .reserved24, .reserved25, .reserved26, .reserved27, .reserved2B],
    [.reserved2C, .reserved2F, .reserved31, .reserved32, .reserved33, .reserved34, .reserved35],
    [.reserved36, .reserved37, .reserved38, .reserved39, .reserved3A, .reserved3B,
      .reserved3C]].flatten

/-- The instructions that write IR1..IR3, each with its `lm` (R150 to R214). -/
def irWriter : Instr → Option Bool
  | .rtps _ lm | .rtpt _ lm | .ncs _ lm | .nct _ lm | .nccs _ lm | .ncct _ lm | .ncds _ lm
  | .ncdt _ lm | .cc _ lm | .cdp _ lm | .dpcs _ lm | .dpct _ lm | .dcpl _ lm | .intpl _ lm
  | .gpf _ lm | .gpl _ lm | .sqr _ lm | .op _ lm | .mvmva _ _ _ _ lm => some lm
  | _ => none

/-- FLAG bits 30 to 25. -/
def wideBits : List FlagBit := [.mac1Pos, .mac2Pos, .mac3Pos, .mac1Neg, .mac2Neg, .mac3Neg]

/-- FLAG bits 24 to 22. -/
def irBits : List FlagBit := [.ir1Sat, .ir2Sat, .ir3Sat]

/-- FLAG bits 21 to 19. -/
def colourBits : List FlagBit := [.colRSat, .colGSat, .colBSat]

/-- FLAG bits 18 to 12. -/
def screenBits : List FlagBit :=
  [.szOtzSat, .divOvf, .mac0Pos, .mac0Neg, .sxSat, .sySat, .ir0Sat]

/-- The conditions an instruction can set (R252). -/
def mayRaise : Instr → List FlagBit
  | .rtps _ _ | .rtpt _ _ => wideBits ++ irBits ++ screenBits
  | .ncs _ _ | .nct _ _ | .nccs _ _ | .ncct _ _ | .ncds _ _ | .ncdt _ _ | .cc _ _ | .cdp _ _
  | .dpcs _ _ | .dpct _ _ | .dcpl _ _ | .intpl _ _ | .gpl _ _ => wideBits ++ irBits ++ colourBits
  | .gpf _ _ => irBits ++ colourBits
  | .mvmva _ _ _ _ _ => wideBits ++ irBits
  | .sqr _ _ | .op _ _ => irBits
  | .nclip => [.mac0Pos, .mac0Neg]
  | .avsz3 | .avsz4 => [.szOtzSat, .mac0Pos, .mac0Neg]
  | _ => []

/-- The bit numbers of FLAG (R42). -/
def flagNumbers : List (Nat × FlagBit) :=
  [[(30, .mac1Pos), (29, .mac2Pos), (28, .mac3Pos), (27, .mac1Neg), (26, .mac2Neg), (25, .mac3Neg)],
    [(24, .ir1Sat), (23, .ir2Sat), (22, .ir3Sat), (21, .colRSat), (20, .colGSat), (19, .colBSat)],
    [(18, .szOtzSat), (17, .divOvf), (16, .mac0Pos), (15, .mac0Neg), (14, .sxSat), (13, .sySat)],
    [(12, .ir0Sat)]].flatten

/-- The conditions whose OR is bit 31 (R42, R43). -/
def errConditions : List FlagBit :=
  [[.mac1Pos, .mac2Pos, .mac3Pos, .mac1Neg, .mac2Neg, .mac3Neg, .ir1Sat, .ir2Sat],
    [.szOtzSat, .divOvf, .mac0Pos, .mac0Neg, .sxSat, .sySat]].flatten

/-- The listing of R125, 16 bytes a row. -/
def unrListing : List Byte :=
  [[0xFF, 0xFD, 0xFB, 0xF9, 0xF7, 0xF5, 0xF3, 0xF1, 0xEF, 0xEE, 0xEC, 0xEA, 0xE8, 0xE6, 0xE4, 0xE3],
    [0xE1, 0xDF, 0xDD, 0xDC, 0xDA, 0xD8, 0xD6, 0xD5, 0xD3, 0xD1, 0xD0, 0xCE, 0xCD, 0xCB, 0xC9, 0xC8],
    [0xC6, 0xC5, 0xC3, 0xC1, 0xC0, 0xBE, 0xBD, 0xBB, 0xBA, 0xB8, 0xB7, 0xB5, 0xB4, 0xB2, 0xB1, 0xB0],
    [0xAE, 0xAD, 0xAB, 0xAA, 0xA9, 0xA7, 0xA6, 0xA4, 0xA3, 0xA2, 0xA0, 0x9F, 0x9E, 0x9C, 0x9B, 0x9A],
    [0x99, 0x97, 0x96, 0x95, 0x94, 0x92, 0x91, 0x90, 0x8F, 0x8D, 0x8C, 0x8B, 0x8A, 0x89, 0x87, 0x86],
    [0x85, 0x84, 0x83, 0x82, 0x81, 0x7F, 0x7E, 0x7D, 0x7C, 0x7B, 0x7A, 0x79, 0x78, 0x77, 0x75, 0x74],
    [0x73, 0x72, 0x71, 0x70, 0x6F, 0x6E, 0x6D, 0x6C, 0x6B, 0x6A, 0x69, 0x68, 0x67, 0x66, 0x65, 0x64],
    [0x63, 0x62, 0x61, 0x60, 0x5F, 0x5E, 0x5D, 0x5D, 0x5C, 0x5B, 0x5A, 0x59, 0x58, 0x57, 0x56, 0x55],
    [0x54, 0x53, 0x53, 0x52, 0x51, 0x50, 0x4F, 0x4E, 0x4D, 0x4D, 0x4C, 0x4B, 0x4A, 0x49, 0x48, 0x48],
    [0x47, 0x46, 0x45, 0x44, 0x43, 0x43, 0x42, 0x41, 0x40, 0x3F, 0x3F, 0x3E, 0x3D, 0x3C, 0x3C, 0x3B],
    [0x3A, 0x39, 0x39, 0x38, 0x37, 0x36, 0x36, 0x35, 0x34, 0x33, 0x33, 0x32, 0x31, 0x31, 0x30, 0x2F],
    [0x2E, 0x2E, 0x2D, 0x2C, 0x2C, 0x2B, 0x2A, 0x2A, 0x29, 0x28, 0x28, 0x27, 0x26, 0x26, 0x25, 0x24],
    [0x24, 0x23, 0x22, 0x22, 0x21, 0x20, 0x20, 0x1F, 0x1E, 0x1E, 0x1D, 0x1D, 0x1C, 0x1B, 0x1B, 0x1A],
    [0x19, 0x19, 0x18, 0x18, 0x17, 0x16, 0x16, 0x15, 0x15, 0x14, 0x14, 0x13, 0x12, 0x12, 0x11, 0x11],
    [0x10, 0x0F, 0x0F, 0x0E, 0x0E, 0x0D, 0x0D, 0x0C, 0x0C, 0x0B, 0x0A, 0x0A, 0x09, 0x09, 0x08, 0x08],
    [0x07, 0x07, 0x06, 0x06, 0x05, 0x05, 0x04, 0x04, 0x03, 0x03, 0x02, 0x02, 0x01, 0x01, 0x00, 0x00],
    [0x00]].flatten

/-! Frames: what differs from `s` in `t`, field by field; everything else is equal, the caller's
list and the reply included. -/

/-- The fields a projection writes. -/
def projectionFrame (s t : State) : Prop :=
  t = { s with file := { s.file with
    mac := t.file.mac, ir := t.file.ir, sz0 := t.file.sz0, sz1 := t.file.sz1, sz2 := t.file.sz2
    sz3 := t.file.sz3, sxy0 := t.file.sxy0, sxy1 := t.file.sxy1, sxy2 := t.file.sxy2
    mac0 := t.file.mac0, ir0 := t.file.ir0, flag := t.file.flag } }

/-- The fields an instruction that pushes a colour writes. -/
def colourFrame (s t : State) : Prop :=
  t = { s with file := { s.file with
    mac := t.file.mac, ir := t.file.ir, rgb0 := t.file.rgb0, rgb1 := t.file.rgb1
    rgb2 := t.file.rgb2, flag := t.file.flag } }

/-- The fields MVMVA, SQR and OP write. -/
def laneFrame (s t : State) : Prop :=
  t = { s with file := { s.file with mac := t.file.mac, ir := t.file.ir, flag := t.file.flag } }

/-- The fields NCLIP writes. -/
def mac0Frame (s t : State) : Prop :=
  t = { s with file := { s.file with mac0 := t.file.mac0, flag := t.file.flag } }

/-- The fields AVSZ3 and AVSZ4 write. -/
def averageFrame (s t : State) : Prop :=
  t = { s with file := { s.file with
    mac0 := t.file.mac0, otz := t.file.otz, flag := t.file.flag } }

/-! Operands -/

/-- Element `(i, j)` of the matrix `mx` selects (R211, R212). -/
def element (f : RegFile) (mx : MatrixSel) (i j : Lane) : Int :=
  match mx with
  | .rt => ((f.rt.get i).get j).toInt
  | .llm => ((f.llm.get i).get j).toInt
  | .lcm => ((f.lcm.get i).get j).toInt
  | .reserved =>
    match i, j with
    | .l1, .l1 => -(16 * f.rgbc.r.toNat)
    | .l1, .l2 => 16 * f.rgbc.r.toNat
    | .l1, .l3 => f.ir0.toInt
    | .l2, _ => f.rt.l1.l3.toInt
    | .l3, _ => f.rt.l2.l2.toInt

/-- Lane `j` of the vector `v` selects (R211). -/
def component (f : RegFile) (v : VectorSel) (j : Lane) : Int :=
  match v with
  | .v0 => (f.v0.get j).toInt
  | .v1 => (f.v1.get j).toInt
  | .v2 => (f.v2.get j).toInt
  | .ir => (f.ir.get j).toInt

/-- Lane `i` of the translation `cv` selects, far colour apart (R211). -/
def translation (f : RegFile) (cv : TransSel) (i : Lane) : Int :=
  match cv with
  | .tr => (f.tr.get i).toInt
  | .bk => (f.bk.get i).toInt
  | .fc => (f.fc.get i).toInt
  | .none => 0

/-- Byte `l` of the input colour. -/
def inputColour (f : RegFile) (l : Lane) : Int :=
  match l with
  | .l1 => f.rgbc.r.toNat
  | .l2 => f.rgbc.g.toNat
  | .l3 => f.rgbc.b.toNat

/-! Stores -/

/-- IR1..IR3 are the stored MACs held in the range `lm` selects. -/
def irFromMac (lm : Bool) (g : RegFile) : Prop :=
  ∀ l, (g.ir.get l).toInt = sat (irMin lm) 0x7FFF (g.mac.get l).toInt

/-- The colour FIFO of `g` is that of `f` pushed with the MACs of `g` and the code byte of `f`. -/
def pushed (f g : RegFile) : Prop :=
  g.rgb0 = f.rgb1 ∧ g.rgb1 = f.rgb2 ∧ g.rgb2.code = f.rgbc.code ∧
    (g.rgb2.r.toNat : Int) = sat 0 255 (g.mac.l1.toInt / 16) ∧
    (g.rgb2.g.toNat : Int) = sat 0 255 (g.mac.l2.toInt / 16) ∧
    (g.rgb2.b.toNat : Int) = sat 0 255 (g.mac.l3.toInt / 16)

/-- The conditions of the final store into IR1..IR3. -/
def irCondition (lm : Bool) (g : RegFile) (b : FlagBit) : Prop :=
  ∃ l, b = irSat l ∧ outside (irMin lm) 0x7FFF (g.mac.get l).toInt

/-- The conditions of the colour push. -/
def colourCondition (g : RegFile) (b : FlagBit) : Prop :=
  (b = .colRSat ∧ outside 0 255 (g.mac.l1.toInt / 16)) ∨
    (b = .colGSat ∧ outside 0 255 (g.mac.l2.toInt / 16)) ∨
    (b = .colBSat ∧ outside 0 255 (g.mac.l3.toInt / 16))

/-- The conditions of range-checked values, lane by lane. -/
def wideCondition (sums : Lane → List Int) (b : FlagBit) : Prop :=
  ∃ l, (b = macPos l ∧ ∃ v ∈ sums l, above44 v) ∨ (b = macNeg l ∧ ∃ v ∈ sums l, below44 v)

/-- The conditions of a MAC0 value. -/
def mac0Condition (v : Int) (b : FlagBit) : Prop :=
  (b = .mac0Pos ∧ 2 ^ 31 - 1 < v) ∨ (b = .mac0Neg ∧ v < -2 ^ 31)

/-- The exact sum of GPL: the stored MAC at the weight of the instruction's shift, plus the product
(R185). -/
def baseSum (sf : Bool) (f : RegFile) (l : Lane) : Int :=
  (f.mac.get l).toInt * (if sf then 4096 else 1) + (f.ir.get l).toInt * f.ir0.toInt

/-! Interpolation (R128) -/

/-- The exact difference to the far colour. -/
def farDifference (f : RegFile) (start : RegFile → Lane → Int) (l : Lane) : Int :=
  (f.fc.get l).toInt * 4096 - start f l

/-- The stored MAC of pass one. -/
def firstMac (sf : Bool) (f : RegFile) (start : RegFile → Lane → Int) (l : Lane) : Int :=
  (low32 (scaled sf (farDifference f start l))).toInt

/-- The exact sum of pass two. -/
def blended (sf : Bool) (f : RegFile) (start : RegFile → Lane → Int) (l : Lane) : Int :=
  sat (-0x8000) 0x7FFF (firstMac sf f start l) * f.ir0.toInt + start f l

/-- The instruction interpolates from `start` toward the far colour and pushes the colour. -/
def interpolates (sf lm : Bool) (start : RegFile → Lane → Int) (i : Instr) (s : State) : Prop :=
  ∃ t, exec i s = .next t ∧
    (∀ l, (t.file.mac.get l).toInt = scaled sf (blended sf s.file start l)) ∧
    irFromMac lm t.file ∧ pushed s.file t.file ∧
    (∀ b, t.file.flagSet b = true ↔
      wideCondition (fun l => [farDifference s.file start l]) b ∨
      (∃ l, b = irSat l ∧ outside (-0x8000) 0x7FFF (firstMac sf s.file start l)) ∨
      irCondition lm t.file b ∨ colourCondition t.file b) ∧
    colourFrame s t

/-! Projection (R152) -/

/-- The exact rotated and translated lane. -/
def rotated (f : RegFile) (vec : Triple Half) (l : Lane) : Int :=
  (f.tr.get l).toInt * 4096 + (f.rt.get l).l1.toInt * vec.l1.toInt
    + (f.rt.get l).l2.toInt * vec.l2.toInt + (f.rt.get l).l3.toInt * vec.l3.toInt

/-- The three sums of a rotated lane. -/
def rotatedSums (f : RegFile) (vec : Triple Half) (l : Lane) : List Int :=
  partials ((f.tr.get l).toInt * 4096) ((f.rt.get l).l1.toInt * vec.l1.toInt)
    ((f.rt.get l).l2.toInt * vec.l2.toInt) ((f.rt.get l).l3.toInt * vec.l3.toInt)

/-- The screen Z: lane 3's wide value, always shifted by 12. -/
def screenZ (f : RegFile) (vec : Triple Half) : Int := low44 (rotated f vec .l3) / 4096

/-- The quotient of `H` and the screen Z just pushed. -/
def quotient (g : RegFile) : Int := divideValue config g.h.toNat g.sz3.toNat

/-- The exact screen X and Y, 16.16. -/
def screenX (g : RegFile) : Int := quotient g * g.ir.l1.toInt + g.ofx.toInt
def screenY (g : RegFile) : Int := quotient g * g.ir.l2.toInt + g.ofy.toInt

/-- The exact depth cue. -/
def depthCueSum (g : RegFile) : Int := quotient g * g.dqa.toInt + g.dqb.toInt

/-- The conditions of one vertex. -/
def vertexCondition (lm last : Bool) (vec : Triple Half) (f g : RegFile) (b : FlagBit) : Prop :=
  wideCondition (rotatedSums f vec) b ∨
  (b = .ir1Sat ∧ outside (irMin lm) 0x7FFF g.mac.l1.toInt) ∨
  (b = .ir2Sat ∧ outside (irMin lm) 0x7FFF g.mac.l2.toInt) ∨
  (b = .ir3Sat ∧ outside (-0x8000) 0x7FFF (screenZ f vec)) ∨
  (b = .szOtzSat ∧ outside 0 0xFFFF (screenZ f vec)) ∨
  (b = .divOvf ∧ 2 * g.sz3.toNat ≤ g.h.toNat) ∨
  mac0Condition (screenX g) b ∨ mac0Condition (screenY g) b ∨
  (b = .sxSat ∧ outside (-0x400) 0x3FF (screenX g / 65536)) ∨
  (b = .sySat ∧ outside (-0x400) 0x3FF (screenY g / 65536)) ∨
  (last = true ∧ (mac0Condition (depthCueSum g) b ∨
    (b = .ir0Sat ∧ outside 0 0x1000 (depthCueSum g / 4096))))

/-- `g` is `f` after one vertex, FLAG holding the conditions of this vertex alone. -/
structure Vertex (sf lm last : Bool) (vec : Triple Half) (f g : RegFile) : Prop where
  mac : ∀ l, g.mac.get l = low32 (scaled sf (rotated f vec l))
  ir : irFromMac lm g
  sz : g.sz0 = f.sz1 ∧ g.sz1 = f.sz2 ∧ g.sz2 = f.sz3 ∧
    (g.sz3.toNat : Int) = sat 0 0xFFFF (screenZ f vec)
  sxy : g.sxy0 = f.sxy1 ∧ g.sxy1 = f.sxy2 ∧
    g.sxy2.x.toInt = sat (-0x400) 0x3FF (screenX g / 65536) ∧
    g.sxy2.y.toInt = sat (-0x400) 0x3FF (screenY g / 65536)
  depth : last = true → g.mac0 = low32 (depthCueSum g) ∧
    g.ir0.toInt = sat 0 0x1000 (depthCueSum g / 4096)
  noDepth : last = false → g.mac0 = f.mac0 ∧ g.ir0 = f.ir0
  flags : ∀ b, g.flagSet b = true ↔ vertexCondition lm last vec f g b
  frame : g = { f with
    mac := g.mac, ir := g.ir, sz0 := g.sz0, sz1 := g.sz1, sz2 := g.sz2, sz3 := g.sz3
    sxy0 := g.sxy0, sxy1 := g.sxy1, sxy2 := g.sxy2, mac0 := g.mac0, ir0 := g.ir0, flag := g.flag }

end Sys2Proof.Claims

section

open Sys2Proof Sys2Proof.Machine Sys2Proof.Claims

/-! ## Encoding -/

/-- Decoding an encoded instruction gives it back with every operand, whatever the ignored bits
hold (R90, R92, R93, R94, R96, R100). Every instruction of the type is well-formed. -/
def Obligations.DecodeOfEncodeGivesTheInstruction : Prop :=
  ∀ (i : Instr) (junk : Word) (rest : List Word),
    decode ((encode i ||| (junk &&& ~~~ honouredMask i)) :: rest) = .ok (i, rest)

/-- Encoding a decoded word keeps exactly the honoured bits of it (R92, R93, R100). -/
def Obligations.EncodeOfDecodeKeepsHonouredBits : Prop :=
  ∀ w : Word, encode (decodeWord w) = w &&& honouredMask (decodeWord w)

/-- R93: bits 31:20, 12:11 and 9:6 are ignored by every handler; a handler other than MVMVA's
ignores `mx`, `v`, `cv`; NCLIP, AVSZ3 and AVSZ4 also ignore `sf` and `lm`. -/
def Obligations.IgnoredBitsDoNotMatter : Prop :=
  ∀ (w u : Word) (s : State),
    (w &&& 0x000FE43F = u &&& 0x000FE43F →
      step (given (.exec w) s) = step (given (.exec u) s)) ∧
    (w.extractLsb' 0 6 ≠ 0x12 → w &&& 0x0008043F = u &&& 0x0008043F →
      step (given (.exec w) s) = step (given (.exec u) s)) ∧
    (w.extractLsb' 0 6 ∈ [0x06#6, 0x2D#6, 0x2E#6] → w.extractLsb' 0 6 = u.extractLsb' 0 6 →
      step (given (.exec w) s) = step (given (.exec u) s))

/-- R94: the 22 defined function codes, each with the fields its handler honours at the bits of
R92; in MVMVA the selectors are numbered as R211 numbers them. -/
def Obligations.FunctionCodesSelectTheTableRows : Prop :=
  (∀ w : Word, ∀ row ∈ codeMap, w.extractLsb' 0 6 = row.1 →
    decodeWord w = row.2 (w.getLsbD 19) (w.getLsbD 10)) ∧
  (∀ w : Word, w.extractLsb' 0 6 = 0x12 → ∃ mx v cv,
    decodeWord w = .mvmva (w.getLsbD 19) mx v cv (w.getLsbD 10) ∧
    [MatrixSel.rt, .llm, .lcm, .reserved][(w.extractLsb' 17 2).toNat]? = some mx ∧
    [VectorSel.v0, .v1, .v2, .ir][(w.extractLsb' 15 2).toNat]? = some v ∧
    [TransSel.tr, .bk, .fc, .none][(w.extractLsb' 13 2).toNat]? = some cv) ∧
  (∀ w : Word, w.extractLsb' 0 6 ∈ reservedCodes → decodeWord w ∈ reservedInstrs)

/-- Words of R99, one or more of each family, decode to the instruction they stand for. -/
def Obligations.ConventionalWordsDecode : Prop :=
  [0x4A180001#32, 0x4A280030#32, 0x4B400006#32, 0x4B58002D#32, 0x4B78000C#32].map decodeWord =
    [.rtps true false, .rtpt true false, .nclip, .avsz3, .op true false] ∧
  [0x4A780010#32, 0x4A980011#32, 0x4AA00428#32, 0x4B98003D#32, 0x4A680029#32].map decodeWord =
    [.dpcs true false, .intpl true false, .sqr false true, .gpf true false, .dcpl true false] ∧
  [0x4AC8041E#32, 0x4AF80416#32, 0x4B18043F#32, 0x4B38041C#32, 0x4A49E012#32].map decodeWord =
    [.ncs true true, .ncdt true true, .ncct true true, .cc true true,
      .mvmva true .rt .ir .none false]

/-! ## Steps -/

/-- A step whose transaction is `EXEC w` runs the instruction `w` decodes to, the word taken from
the caller's list and nothing returned yet (R90, R76; log entry 1); `withFetchWord` issues such a
word. -/
def Obligations.StepRunsTheDecodedInstruction : Prop :=
  (∀ (s : State) (w : Word) (rest : List Transaction) (i : Instr) (more : List Word),
    s.pending = .exec w :: rest → decode (w :: more) = .ok (i, more) →
      step s = exec i { s with pending := rest, reply := none }) ∧
  (∀ (s : State) (nbits w : Nat),
    step (s.withFetchWord nbits w) =
      exec (decodeWord (BitVec.ofNat 32 (w % 2 ^ nbits))) { s with reply := none })

/-- R250: every step and every instruction answers a next state, and no fault exists. -/
def Obligations.NothingEverFails : Prop :=
  IsEmpty Fault ∧ (∀ s : State, ∃ t, step s = .next t) ∧
    ∀ (i : Instr) (s : State), ∃ t, exec i s = .next t

/-- A run never stops early, and taking as many steps as the caller issued transactions takes them
all (00_scope.md R15; log entry 1). -/
def Obligations.RunsNeverStop : Prop :=
  (∀ (k : Nat) (s : State), RunsFor k s) ∧
    ∀ s : State, ∃ t, core.run s.pending.length s = .next t ∧ t.pending = []

/-- The model's choice of log entry 1: with no transaction issued a step changes nothing
(00_scope.md R3: the block takes a step only when its caller issues a transaction). -/
def Obligations.IdleStepChangesNothing : Prop :=
  ∀ s : State, s.pending = [] → step s = .next s

/-! ## Register access -/

/-- R221, R222, R223, R225, R227: what `RD i` returns of each stored field. -/
def Obligations.ReadViewsOfStoredFields : Prop :=
  ∀ f : RegFile,
    (∀ p ∈ pairFields, (view p.1 f).extractLsb' 0 16 = p.2.1 f ∧
      (view p.1 f).extractLsb' 16 16 = p.2.2 f) ∧
    (∀ p ∈ signedFields, (view p.1 f).toInt = (p.2 f).toInt) ∧
    (∀ p ∈ unsignedFields, (view p.1 f).toNat = (p.2 f).toNat) ∧
    (∀ p ∈ wordFields, view p.1 f = p.2 f) ∧ (view 31 f).toNat = f.lzcr.toNat ∧
    (∀ p ∈ colourFields, ofColour (view p.1 f) (p.2 f)) ∧
    view 15 f = view 14 f

/-- R224: `H` reads sign-extended under `H_READ_SIGN_EXTENDS`, the value taken (log entry 4), and
zero-extended otherwise. -/
def Obligations.HReadsSignExtended : Prop :=
  ∀ (cfg : Config) (f : RegFile),
    (cfg.hReadSignExtends = true → (readReg cfg .h f).toInt = f.h.toInt) ∧
    (cfg.hReadSignExtends = false → (readReg cfg .h f).toNat = f.h.toNat) ∧
    view 58 f = f.h.signExtend 32

/-- R226: indices 28 and 29 read as three 5-bit fields computed from IR1, IR2, IR3. -/
def Obligations.ColourViewIsComputedFromIr : Prop :=
  ∀ f : RegFile, view 28 f = view 29 f ∧
    ((view 28 f).extractLsb' 0 5).toNat = sat 0 0x1F (f.ir.l1.toInt / 128) ∧
    ((view 28 f).extractLsb' 5 5).toNat = sat 0 0x1F (f.ir.l2.toInt / 128) ∧
    ((view 28 f).extractLsb' 10 5).toNat = sat 0 0x1F (f.ir.l3.toInt / 128) ∧
    (view 28 f).extractLsb' 15 17 = 0

/-- R228: FLAG reads with bits 30:12 as stored, numbered as R42 numbers them, bits 11:0 zero and
bit 31 the OR of the conditions R42 marks. -/
def Obligations.FlagReadsWithDerivedBit31 : Prop :=
  ∀ f : RegFile,
    (∀ p ∈ flagNumbers, (view 63 f).getLsbD p.1 = f.flagSet p.2) ∧
    (view 63 f).extractLsb' 0 12 = 0 ∧
    ((view 63 f).getLsbD 31 = true ↔ ∃ b ∈ errConditions, f.flagSet b = true)

/-- R77: a read changes no register and no waiting transaction, returns the word of its index, and
repeated at once returns the same word. -/
def Obligations.ReadsHaveNoSideEffect : Prop :=
  ∀ (i : Fin 64) (s : State),
    step (given (.rd i) s) = .next { s with reply := some (.word (view i s.file)) } ∧
    ∃ t, core.run 2 (given (.rd i) (given (.rd i) s)) = .next t ∧
      t = { s with reply := some (.word (view i s.file)) }

/-- R231, R232, R233, R234, R235: a write stores the raw bits of the word into the fields of its
index and touches the word of no index but its own (and those derived from its fields): nothing is
clamped, no FIFO shifts, no condition is recorded; after a write of 14, index 15 reads the word. -/
def Obligations.WritesStoreRawBits : Prop :=
  ∀ (v : Word) (s : State),
    (∀ p ∈ pairFields, ∃ t, step (given (.wr p.1 v) s) = .next t ∧ wroteOnly p.1 s t ∧
      p.2.1 t.file = v.extractLsb' 0 16 ∧ p.2.2 t.file = v.extractLsb' 16 16 ∧
      (p.1 = 14 → view 15 t.file = v)) ∧
    (∀ p ∈ signedFields ++ unsignedFields ++ [(58, (·.h))], ∃ t,
      step (given (.wr p.1 v) s) = .next t ∧ wroteOnly p.1 s t ∧
      p.2 t.file = v.extractLsb' 0 16) ∧
    (∀ p ∈ wordFields, ∃ t, step (given (.wr p.1 v) s) = .next t ∧ wroteOnly p.1 s t ∧
      p.2 t.file = v) ∧
    (∀ p ∈ colourFields, ∃ t, step (given (.wr p.1 v) s) = .next t ∧ wroteOnly p.1 s t ∧
      ofColour v (p.2 t.file))

/-- R236: `WR 15` pushes the SXY FIFO with the raw word and changes nothing else. -/
def Obligations.WriteSxypPushesTheFifo : Prop :=
  ∀ (v : Word) (s : State),
    step (given (.wr 15 v) s) = .next { s with
      file := { s.file with
        sxy0 := s.file.sxy1
        sxy1 := s.file.sxy2
        sxy2 := ⟨v.extractLsb' 0 16, v.extractLsb' 16 16⟩ }
      reply := none }

/-- R238: `WR 28` decomposes a 5:5:5 colour into IR1, IR2, IR3 and changes nothing else; a
following read of 28 or 29 returns the low 15 bits written. -/
def Obligations.WriteIrgbDecomposes : Prop :=
  ∀ (v : Word) (s : State), ∃ t,
    step (given (.wr 28 v) s) = .next t ∧
    t.file.ir.l1.toInt = (v.extractLsb' 0 5).toNat * 0x80 ∧
    t.file.ir.l2.toInt = (v.extractLsb' 5 5).toNat * 0x80 ∧
    t.file.ir.l3.toInt = (v.extractLsb' 10 5).toNat * 0x80 ∧
    t = { s with file := { s.file with ir := t.file.ir }, reply := none } ∧
    view 28 t.file = (v.setWidth 15).setWidth 32 ∧ view 29 t.file = (v.setWidth 15).setWidth 32

/-- R239, R241: writes of 29 and 31 change nothing, and `LZCR` changes only by `WR 30`, `RESET` or
`RESTORE`. -/
def Obligations.ReadOnlyWritesAreIgnored : Prop :=
  (∀ (v : Word) (s : State),
    step (given (.wr 29 v) s) = .next { s with reply := none } ∧
    step (given (.wr 31 v) s) = .next { s with reply := none }) ∧
  (∀ (x : Transaction) (s t : State), step (given x s) = .next t →
    t.file.lzcr ≠ s.file.lzcr → (∃ v, x = .wr 30 v) ∨ x = .reset ∨ ∃ d, x = .restore d)

/-- R240: `WR 30` stores the source and the number of bits, from bit 31 downward, that equal bit
31. -/
def Obligations.WriteLzcsCountsLeadingBits : Prop :=
  ∀ (v : Word) (s : State), ∃ n : Nat, 1 ≤ n ∧ n ≤ 32 ∧
    (∀ k < 32, k < n ↔ ∀ j ≤ k, v.getLsbD (31 - j) = v.getLsbD 31) ∧
    step (given (.wr 30 v) s) = .next { s with
      file := { s.file with lzcs := v, lzcr := BitVec.ofNat 6 n }, reply := none }

/-- R242: `WR 63` stores bits 30:12 of the word and nothing else of it. -/
def Obligations.WriteFlagKeepsBits30To12 : Prop :=
  ∀ (v : Word) (s : State), ∃ t,
    step (given (.wr 63 v) s) = .next t ∧
    (∀ p ∈ flagNumbers, t.file.flagSet p.2 = v.getLsbD p.1) ∧
    t = { s with file := { s.file with flag := t.file.flag }, reply := none } ∧
    view 63 t.file =
      (v &&& 0x7FFFF000) ||| (if v &&& 0x7F87E000 ≠ 0 then 0x80000000 else 0)

/-- R244: the word `RD i` returns right after `WR i, v`, for every index. -/
def Obligations.WriteThenReadRoundTrip : Prop :=
  ∀ (i : Fin 64) (v : Word) (s : State), ∃ t,
    core.run 2 (given (.wr i v) (given (.rd i) s)) = .next t ∧
    t.reply = some (.word (roundTrip i v s.file))

/-- R78: a write changes no word but those of the listed indices. -/
def Obligations.WritesAffectOnlyTheListedIndices : Prop :=
  ∀ (i : Fin 64) (v : Word) (s : State), ∃ t, step (given (.wr i v) s) = .next t ∧ wroteOnly i s t

/-- R43: bits 30:12 of FLAG change only by `EXEC` of a defined function, `WR 63`, `RESET` or
`RESTORE`, and after every step bit 31 is the OR of its constituents. -/
def Obligations.OnlyTheseTransactionsChangeFlag : Prop :=
  ∀ (x : Transaction) (s t : State), step (given x s) = .next t →
    (t.file.flag ≠ s.file.flag →
      (∃ w, x = .exec w ∧ w.extractLsb' 0 6 ∉ reservedCodes) ∨ (∃ v, x = .wr 63 v) ∨ x = .reset ∨
        ∃ d, x = .restore d) ∧
    ((view 63 t.file).getLsbD 31 = decide (view 63 t.file &&& 0x7F87E000 ≠ 0))

/-! ## Reset, dump and restore -/

/-- R270, R272: `RESET` sets every stored field to 0, the state before the first transaction has
the same file, every index then reads 0, and `LZCR` is 0 although `WR 30, 0` makes it 32. -/
def Obligations.ResetZeroesTheFile : Prop :=
  State.reset.file = zeroFile ∧
  (∀ s : State, step (given .reset s) = .next { s with file := zeroFile, reply := none }) ∧
  (∀ i, view i zeroFile = 0) ∧
  ∃ t, step (given (.wr 30 0) .reset) = .next t ∧ t.file.lzcs = 0 ∧ t.file.lzcr = 32

/-- R245: `DUMP` returns the 64 read views in index order and changes no register, and the views lose
nothing of the file. -/
def Obligations.DumpReturnsEveryView : Prop :=
  (∀ s : State, ∃ d : DumpWords,
    step (given .dump s) = .next { s with reply := some (.words d) } ∧
    ∀ i : Fin 64, d[i] = view i s.file) ∧
  ∀ f g : RegFile, (∀ i, view i f = view i g) → f = g

/-- R246: restoring a dump reproduces the register file, for any state. -/
def Obligations.RestoreOfDumpIsTheIdentity : Prop :=
  ∀ s : State, ∃ d : DumpWords, step (given .dump s) = .next { s with reply := some (.words d) } ∧
    ∀ u : State, step (given (.restore d) u) = .next { u with file := s.file, reply := none }

/-- R246: `RESTORE` sets every stored field, so the file it leaves does not depend on the one before;
and the words come back from a following `DUMP` exactly when a `DUMP` could have produced them. -/
def Obligations.RestoreSetsEveryField : Prop :=
  ∀ d : DumpWords, ∃ f : RegFile,
    (∀ s : State, step (given (.restore d) s) = .next { s with file := f, reply := none }) ∧
    (∀ p ∈ pairFields, p.2.1 f = d[p.1].extractLsb' 0 16 ∧ p.2.2 f = d[p.1].extractLsb' 16 16) ∧
    (∀ p ∈ signedFields ++ unsignedFields ++ [(58, (·.h))], p.2 f = d[p.1].extractLsb' 0 16) ∧
    (∀ p ∈ wordFields, p.2 f = d[p.1]) ∧ (∀ p ∈ colourFields, ofColour d[p.1] (p.2 f)) ∧
    f.lzcr = d[31].extractLsb' 0 6 ∧ (∀ p ∈ flagNumbers, f.flagSet p.2 = d[63].getLsbD p.1) ∧
    ((∀ i : Fin 64, view i f = d[i]) ∧ d[31].toNat ≤ 32 ↔ Dump.wellFormed config d = true)

/-! ## Every instruction -/

/-- R252: the conditions an instruction can leave in FLAG, for all 64 function codes: none but its
own, since it clears FLAG first (FLAG_CLEARED_AT_EXEC, log entry 7); a reserved code leaves FLAG as it
was (RESERVED_FUNCTION, log entry 5). -/
def Obligations.InstructionsRaiseOnlyTheirFlags : Prop :=
  ∀ (i : Instr) (s : State), ∃ t, exec i s = .next t ∧
    ∀ b, t.file.flagSet b = true → b ∈ mayRaise i ∨ (i ∈ reservedInstrs ∧ s.file.flagSet b = true)

/-- R44, R131 (f): no defined instruction depends on the FLAG it starts from (the clear is
FLAG_CLEARED_AT_EXEC, log entry 7). -/
def Obligations.InstructionsDoNotReadFlag : Prop :=
  ∀ (i : Instr), i ∉ reservedInstrs → ∀ (s : State) (w : Flags),
    exec i { s with file := { s.file with flag := w } } = exec i s

/-- R215: `EXEC` of a reserved function code completes and changes nothing, FLAG included
(RESERVED_FUNCTION, log entry 5). -/
def Obligations.ReservedCodesChangeNothing : Prop :=
  (∀ i ∈ reservedInstrs, ∀ s : State, exec i s = .next s) ∧
  ∀ (w : Word) (s : State), w.extractLsb' 0 6 ∈ reservedCodes →
    step (given (.exec w) s) = .next { s with reply := none }

/-- Input registers, constants, `RES1`, the leading-bit pair, the waiting transactions and the reply
survive every instruction (R23, R24, R31, R34, R41), and survive a reserved code under every
behaviour the source allows it (R215). -/
def Obligations.InstructionsNeverWriteInputs : Prop :=
  ∀ (s t : State),
    (∃ i, exec i s = .next t) ∨ (∃ w, ReservedAllowed w s t) →
    t.file.v0 = s.file.v0 ∧ t.file.v1 = s.file.v1 ∧ t.file.v2 = s.file.v2 ∧
    t.file.rgbc = s.file.rgbc ∧ t.file.res1 = s.file.res1 ∧ t.file.lzcs = s.file.lzcs ∧
    t.file.lzcr = s.file.lzcr ∧ t.file.rt = s.file.rt ∧ t.file.tr = s.file.tr ∧
    t.file.llm = s.file.llm ∧ t.file.bk = s.file.bk ∧ t.file.lcm = s.file.lcm ∧
    t.file.fc = s.file.fc ∧ t.file.ofx = s.file.ofx ∧ t.file.ofy = s.file.ofy ∧
    t.file.h = s.file.h ∧ t.file.dqa = s.file.dqa ∧ t.file.dqb = s.file.dqb ∧
    t.file.zsf3 = s.file.zsf3 ∧ t.file.zsf4 = s.file.zsf4 ∧ t.pending = s.pending ∧
    t.reply = s.reply

/-- RTPS and RTPT complete and write MAC1..3, IR1..3, the SZ and SXY FIFOs, MAC0, IR0 and FLAG,
nothing else (R150, R151). -/
def Obligations.ProjectionFrame : Prop :=
  ∀ (sf lm : Bool) (s : State), ∀ i ∈ [Instr.rtps sf lm, .rtpt sf lm],
    ∃ t, exec i s = .next t ∧ projectionFrame s t

/-- The 14 instructions that push a colour complete and write MAC1..3, IR1..3, the colour FIFO and
FLAG, nothing else (R160 to R167, R180 to R185). -/
def Obligations.ColourFrame : Prop :=
  ∀ (sf lm : Bool) (s : State),
    ∀ i ∈ [Instr.ncs sf lm, .nct sf lm, .nccs sf lm, .ncct sf lm, .ncds sf lm, .ncdt sf lm,
      .cc sf lm, .cdp sf lm, .dpcs sf lm, .dpct sf lm, .dcpl sf lm, .intpl sf lm, .gpf sf lm,
      .gpl sf lm],
    ∃ t, exec i s = .next t ∧ colourFrame s t

/-- MVMVA, with every selector, completes and writes MAC1..3, IR1..3 and FLAG, nothing else (R210). -/
def Obligations.MvmvaFrame : Prop :=
  ∀ (sf : Bool) (mx : MatrixSel) (v : VectorSel) (cv : TransSel) (lm : Bool) (s : State),
    ∃ t, exec (.mvmva sf mx v cv lm) s = .next t ∧ laneFrame s t

/-- R46: after any instruction that writes IR1..IR3, each is the stored MAC of its lane held in the
range `lm` selects, and a MAC outside that range has its condition recorded, but for lane 3 of RTPS
and RTPT; with `RTP_IR3_QUIRK` false (log entry 8) it holds of every lane of `rtp` too. -/
def Obligations.IrIsTheSaturatedMac : Prop :=
  (∀ (i : Instr) (lm : Bool), irWriter i = some lm → ∀ s : State, ∃ t, exec i s = .next t ∧
    irFromMac lm t.file ∧
    ∀ l, ((∀ sf, i ≠ .rtps sf lm ∧ i ≠ .rtpt sf lm) ∨ l ≠ .l3) →
      outside (irMin lm) 0x7FFF (t.file.mac.get l).toInt → t.file.flagSet (irSat l) = true) ∧
  (∀ (cfg : Config), cfg.rtpIr3Quirk = false →
    ∀ (vec : Triple Half) (sh : Nat) (lm last : Bool) (f : RegFile),
      irFromMac lm (rtp cfg vec sh lm last f) ∧
      ∀ l, outside (irMin lm) 0x7FFF ((rtp cfg vec sh lm last f).mac.get l).toInt →
        (rtp cfg vec sh lm last f).flagSet (irSat l) = true)

/-- R130: the screen coordinates RTPS and RTPT push and the IR0 they store are in range, whatever the
operands; RTPT leaves no older screen coordinate. -/
def Obligations.ProjectedValuesAreInRange : Prop :=
  ∀ (sf lm : Bool) (s : State), ∃ t u, exec (.rtps sf lm) s = .next t ∧
    exec (.rtpt sf lm) s = .next u ∧
    (∀ f ∈ [t.file, u.file], 0 ≤ f.ir0.toInt ∧ f.ir0.toInt ≤ 0x1000) ∧
    (∀ p ∈ [t.file.sxy2, u.file.sxy0, u.file.sxy1, u.file.sxy2],
      -0x400 ≤ p.x.toInt ∧ p.x.toInt ≤ 0x3FF ∧ -0x400 ≤ p.y.toInt ∧ p.y.toInt ≤ 0x3FF)

/-! ## Invariants -/

/-- From every state whose leading-bit pair is consistent (or as reset leaves it), and whose waiting
`RESTORE`s carry such pairs, a step leaves such a state (R34, R240, R241, R246, R272). -/
def Obligations.StepKeepsTheLeadingBitPair : Prop :=
  ∀ s t : State, s.LzInv → step s = .next t → t.LzInv

/-- The leading-bit pair is as the invariant says right after reset (R272). -/
def Obligations.ResetHasTheLeadingBitPair : Prop := State.reset.LzInv

/-! ## Primitives -/

/-- R113: the range check of the 44-bit accumulator, under both readings of
`MAC123_WIDE_OVERFLOW`: the value, and the two conditions. -/
def Obligations.WideCheckUnderBothReadings : Prop :=
  ∀ (cfg : Config) (l : Lane) (v : Int) (w : Flags),
    (-2 ^ 43 ≤ wideValue cfg v ∧ wideValue cfg v ≤ 2 ^ 43 - 1) ∧
    (¬ above44 v → ¬ below44 v → wideValue cfg v = v) ∧
    (cfg.wideOverflow = .wrap → (2 ^ 44 : Int) ∣ wideValue cfg v - v) ∧
    (cfg.wideOverflow = .clamp → wideValue cfg v = sat (-2 ^ 43) (2 ^ 43 - 1) v) ∧
    (∀ b, flagHas (wideFlags l v w) b = true ↔
      flagHas w b = true ∨ (b = macPos l ∧ above44 v) ∨ (b = macNeg l ∧ below44 v))

/-- R125: the table of this machine is the listing, 257 bytes, and the generator gives the listing
(UNR_TABLE, log entry 6). -/
def Obligations.UnrTableIsTheListing : Prop :=
  config.unrTable = unrListing ∧ unrListing.length = 257 ∧
  ∀ i ≤ 0x100, ((unrListing.getD i 0).toNat : Int) =
    max 0 (((0x40000 / ((i : Int) + 0x100)) + 1) / 2 - 0x101)

/-- R124: the divider saturates exactly when `h >= 2 * z`; otherwise the divisor is normalised to
bit 15, the reciprocal is seeded from the table of R125 and refined once, the quotient is rounded and
held to 17 bits. The bounds are those the rule's comments give for the index, the seed and the
reciprocal; for the comment on the middle value see log entry 17. -/
def Obligations.DividerFollowsTheScheme : Prop :=
  ∀ h z : Nat, h ≤ 0xFFFF → z ≤ 0xFFFF →
    divideValue config h z ≤ 0x1FFFF ∧
    (∀ w b, flagHas (divideFlag h z w) b = true ↔
      flagHas w b = true ∨ (b = .divOvf ∧ 2 * z ≤ h)) ∧
    (2 * z ≤ h → divideValue config h z = 0x1FFFF) ∧
    (h < 2 * z → ∃ c d k u r : Nat, c ≤ 15 ∧ d = z * 2 ^ c ∧ 0x8000 ≤ d ∧ d ≤ 0xFFFF ∧
      k = (d - 0x7FC0) / 128 ∧ k ≤ 0x100 ∧ u = (unrListing.getD k 0).toNat + 0x101 ∧
      0x101 ≤ u ∧ u ≤ 0x200 ∧ r = (0x80 + (0x2000080 - d * u) / 256 * u) / 256 ∧
      d * u ≤ 0x2000080 ∧ 0x10000 ≤ r ∧ r ≤ 0x20000 ∧
      divideValue config h z = min 0x1FFFF ((h * 2 ^ c * r + 0x8000) / 65536))

/-! ## Results -/

/-- R200: NCLIP stores the low 32 bits of the exact signed double area in MAC0; the sum equals the
product form; swapping two vertices negates it. -/
def Obligations.NclipResult : Prop :=
  (∀ w : Word, w.extractLsb' 0 6 = 0x06 → decodeWord w = .nclip) ∧
  (∀ s : State, ∃ t r, exec .nclip s = .next t ∧
    r = s.file.sxy0.x.toInt * s.file.sxy1.y.toInt + s.file.sxy1.x.toInt * s.file.sxy2.y.toInt
      + s.file.sxy2.x.toInt * s.file.sxy0.y.toInt - s.file.sxy0.x.toInt * s.file.sxy2.y.toInt
      - s.file.sxy1.x.toInt * s.file.sxy0.y.toInt - s.file.sxy2.x.toInt * s.file.sxy1.y.toInt ∧
    r = (s.file.sxy1.x.toInt - s.file.sxy0.x.toInt) * (s.file.sxy2.y.toInt - s.file.sxy0.y.toInt)
      - (s.file.sxy2.x.toInt - s.file.sxy0.x.toInt) * (s.file.sxy1.y.toInt - s.file.sxy0.y.toInt) ∧
    -2 ^ 33 < r ∧ r < 2 ^ 33 ∧
    t.file.mac0 = low32 r ∧ (∀ b, t.file.flagSet b = true ↔ mac0Condition r b) ∧ mac0Frame s t) ∧
  (∀ s : State, ∃ t u, exec .nclip s = .next t ∧
    exec .nclip { s with file := { s.file with sxy1 := s.file.sxy2, sxy2 := s.file.sxy1 } } =
      .next u ∧ u.file.mac0 = -t.file.mac0)

/-- R201, R202: AVSZ3 and AVSZ4 store the exact product in MAC0, its low 32 bits, and the product
shifted by 12 and clamped in OTZ; `sf` plays no part. -/
def Obligations.AverageZResult : Prop :=
  ∀ s : State,
    ∀ p ∈ [(Instr.avsz3, s.file.zsf3.toInt *
        ((s.file.sz1.toNat : Int) + s.file.sz2.toNat + s.file.sz3.toNat)),
      (.avsz4, s.file.zsf4.toInt *
        ((s.file.sz0.toNat : Int) + s.file.sz1.toNat + s.file.sz2.toNat + s.file.sz3.toNat))],
    ∃ t, exec p.1 s = .next t ∧ t.file.mac0 = low32 p.2 ∧
      (t.file.otz.toNat : Int) = sat 0 0xFFFF (p.2 / 4096) ∧
      (∀ b, t.file.flagSet b = true ↔
        mac0Condition p.2 b ∨ (b = .szOtzSat ∧ outside 0 0xFFFF (p.2 / 4096))) ∧
      averageFrame s t

/-- R203: SQR stores the exact shifted squares; the wide check never fires, `lm` never matters, IR
saturates at 0x7FFF. -/
def Obligations.SqrResult : Prop :=
  ∀ (sf lm : Bool) (s : State), ∃ t, exec (.sqr sf lm) s = .next t ∧
    (∀ l, (t.file.mac.get l).toInt = scaled sf ((s.file.ir.get l).toInt * (s.file.ir.get l).toInt) ∧
      (t.file.ir.get l).toInt = min 0x7FFF (t.file.mac.get l).toInt) ∧
    (∀ b, t.file.flagSet b = true ↔ ∃ l, b = irSat l ∧ 0x7FFF < (t.file.mac.get l).toInt) ∧
    laneFrame s t

/-- R204: OP stores the exact shifted cross product of the rotation matrix's diagonal and IR; the
wide check never fires. -/
def Obligations.OuterProductResult : Prop :=
  ∀ (sf lm : Bool) (s : State), ∃ (t : State) (a d : Triple Int), exec (.op sf lm) s = .next t ∧
      a = ⟨s.file.ir.l1.toInt, s.file.ir.l2.toInt, s.file.ir.l3.toInt⟩ ∧
      d = ⟨s.file.rt.l1.l1.toInt, s.file.rt.l2.l2.toInt, s.file.rt.l3.l3.toInt⟩ ∧
      t.file.mac.l1.toInt = scaled sf (a.l3 * d.l2 - a.l2 * d.l3) ∧
      t.file.mac.l2.toInt = scaled sf (a.l1 * d.l3 - a.l3 * d.l1) ∧
      t.file.mac.l3.toInt = scaled sf (a.l2 * d.l1 - a.l1 * d.l2) ∧
      irFromMac lm t.file ∧
      (∀ b, t.file.flagSet b = true ↔ irCondition lm t.file b) ∧ laneFrame s t

/-- R210, R126, R211, R212, R214: MVMVA with every matrix, the reserved one included, every vector
and every translation but the far colour: MAC is the low 32 bits of the exact shifted sum, IR the MAC
held in range, and an overflow of any partial sum is recorded. -/
def Obligations.MvmvaResult : Prop :=
  ∀ (sf : Bool) (mx : MatrixSel) (v : VectorSel) (cv : TransSel) (lm : Bool) (s : State), cv ≠ .fc →
    ∃ t, exec (.mvmva sf mx v cv lm) s = .next t ∧
      (∀ l, t.file.mac.get l = low32 (scaled sf (translation s.file cv l * 4096
        + element s.file mx l .l1 * component s.file v .l1
        + element s.file mx l .l2 * component s.file v .l2
        + element s.file mx l .l3 * component s.file v .l3))) ∧
      irFromMac lm t.file ∧
      (∀ b, t.file.flagSet b = true ↔
        wideCondition (fun l => partials (translation s.file cv l * 4096)
          (element s.file mx l .l1 * component s.file v .l1)
          (element s.file mx l .l2 * component s.file v .l2)
          (element s.file mx l .l3 * component s.file v .l3)) b ∨ irCondition lm t.file b) ∧
      laneFrame s t

/-- R213, R127: MVMVA with the far colour: the result is the last two products alone, exact; the
discarded first step can set its own conditions, its saturation with `lm` forced to 0. -/
def Obligations.MvmvaFarColourResult : Prop :=
  ∀ (sf : Bool) (mx : MatrixSel) (v : VectorSel) (lm : Bool) (s : State),
    ∃ t, exec (.mvmva sf mx v .fc lm) s = .next t ∧
      (∀ l, t.file.mac.get l = low32 (scaled sf
        (element s.file mx l .l2 * component s.file v .l2
          + element s.file mx l .l3 * component s.file v .l3))) ∧
      irFromMac lm t.file ∧
      (∀ b, t.file.flagSet b = true ↔
        wideCondition (fun l => [(s.file.fc.get l).toInt * 4096
          + element s.file mx l .l1 * component s.file v .l1]) b ∨
        (∃ l, b = irSat l ∧ outside (-0x8000) 0x7FFF (low32 (scaled sf
          ((s.file.fc.get l).toInt * 4096
            + element s.file mx l .l1 * component s.file v .l1))).toInt) ∨
        irCondition lm t.file b) ∧
      laneFrame s t

/-- R211: MVMVA with the rotation matrix, V0 and TR computes the MAC1..3, IR1 and IR2 of RTPS, and
the same conditions of those stores. -/
def Obligations.RtpsRotatesAsMvmva : Prop :=
  ∀ (sf lm : Bool) (s : State), ∃ t u, exec (.rtps sf lm) s = .next t ∧
    exec (.mvmva sf .rt .v0 .tr lm) s = .next u ∧ t.file.mac = u.file.mac ∧
    t.file.ir.l1 = u.file.ir.l1 ∧ t.file.ir.l2 = u.file.ir.l2 ∧
    ∀ b ∈ wideBits ++ [.ir1Sat, .ir2Sat], t.file.flagSet b = u.file.flagSet b

/-- R184: GPF stores the exact shifted products IR times IR0 and pushes the colour; the wide check
never fires. -/
def Obligations.GpfResult : Prop :=
  ∀ (sf lm : Bool) (s : State), ∃ t, exec (.gpf sf lm) s = .next t ∧
    (∀ l, (t.file.mac.get l).toInt = scaled sf ((s.file.ir.get l).toInt * s.file.ir0.toInt)) ∧
    irFromMac lm t.file ∧ pushed s.file t.file ∧
    (∀ b, t.file.flagSet b = true ↔ irCondition lm t.file b ∨ colourCondition t.file b) ∧
    colourFrame s t

/-- R185: GPL adds the stored MAC, shifted left by the instruction's shift, to the product. -/
def Obligations.GplResult : Prop :=
  ∀ (sf lm : Bool) (s : State), ∃ t, exec (.gpl sf lm) s = .next t ∧
    (∀ l, t.file.mac.get l = low32 (scaled sf (baseSum sf s.file l))) ∧
    irFromMac lm t.file ∧ pushed s.file t.file ∧
    (∀ b, t.file.flagSet b = true ↔
      wideCondition (fun l => [baseSum sf s.file l]) b ∨ irCondition lm t.file b ∨
        colourCondition t.file b) ∧
    colourFrame s t

/-- R180, R182, R183, R128: DPCS from the input colour, DCPL from the input colour times IR, INTPL
from IR, each toward the far colour by IR0 in two saturating passes, then the push. -/
def Obligations.InterpolationResults : Prop :=
  ∀ (sf lm : Bool) (s : State),
    interpolates sf lm (fun f l => inputColour f l * 65536) (.dpcs sf lm) s ∧
    interpolates sf lm (fun f l => inputColour f l * (f.ir.get l).toInt * 16) (.dcpl sf lm) s ∧
    interpolates sf lm (fun f l => (f.ir.get l).toInt * 4096) (.intpl sf lm) s

/-- R181, R186: DPCT is DPCS three times on the oldest entry of the colour FIFO, the code byte that of
RGBC; FLAG collects the three. -/
def Obligations.DpctIsThreeDepthCues : Prop :=
  ∀ (sf lm : Bool) (s : State), ∃ a b c t,
    exec (.dpct sf lm) s = .next t ∧
    exec (.dpcs sf lm) { s with file := { s.file with
      rgbc := { s.file.rgb0 with code := s.file.rgbc.code } } } = .next a ∧
    exec (.dpcs sf lm) { a with file := { a.file with
      rgbc := { a.file.rgb0 with code := s.file.rgbc.code } } } = .next b ∧
    exec (.dpcs sf lm) { b with file := { b.file with
      rgbc := { b.file.rgb0 with code := s.file.rgbc.code } } } = .next c ∧
    t = { c with file := { c.file with
      rgbc := s.file.rgbc, flag := a.file.flag ||| b.file.flag ||| c.file.flag } }

/-- R166, R168, R129: CC is the light-colour transform of IR with the background colour, then the
exact shifted product with the input colour, then the push; FLAG collects all of it. -/
def Obligations.CcResult : Prop :=
  ∀ (sf lm : Bool) (s : State), ∃ a t,
    exec (.mvmva sf .lcm .ir .bk lm) s = .next a ∧ exec (.cc sf lm) s = .next t ∧
    (∀ l, (t.file.mac.get l).toInt =
      scaled sf (inputColour s.file l * (a.file.ir.get l).toInt * 16)) ∧
    irFromMac lm t.file ∧ pushed s.file t.file ∧
    (∀ b, t.file.flagSet b = true ↔
      a.file.flagSet b = true ∨ irCondition lm t.file b ∨ colourCondition t.file b) ∧
    colourFrame s t

/-- R160, R168, R169: NCS is the light transform of V0, then the light-colour transform with the
background colour, then the push; FLAG collects all of it. -/
def Obligations.NcsResult : Prop :=
  ∀ (sf lm : Bool) (s : State), ∃ a c t,
    exec (.mvmva sf .llm .v0 .none lm) s = .next a ∧
    exec (.mvmva sf .lcm .ir .bk lm) a = .next c ∧ exec (.ncs sf lm) s = .next t ∧
    t.file.mac = c.file.mac ∧ t.file.ir = c.file.ir ∧ pushed s.file t.file ∧
    (∀ b, t.file.flagSet b = true ↔
      a.file.flagSet b = true ∨ c.file.flagSet b = true ∨ colourCondition t.file b) ∧
    colourFrame s t

/-- R162, R164, R167, R168, R169: CDP is the light-colour transform followed by DCPL; NCCS and NCDS
are the light transform of V0 followed by CC and CDP; FLAG collects both parts. -/
def Obligations.LightingStagesCompose : Prop :=
  ∀ (sf lm : Bool) (s : State),
    ∀ p ∈ [(Instr.cdp sf lm, Instr.mvmva sf .lcm .ir .bk lm, Instr.dcpl sf lm),
      (.nccs sf lm, .mvmva sf .llm .v0 .none lm, .cc sf lm),
      (.ncds sf lm, .mvmva sf .llm .v0 .none lm, .cdp sf lm)],
    ∃ a b, exec p.2.1 s = .next a ∧ exec p.2.2 a = .next b ∧
      exec p.1 s = .next { b with file := { b.file with flag := a.file.flag ||| b.file.flag } }

/-- R161, R163, R165: each triple variant is its single variant on V0, V1 and V2 in order; FLAG
collects the three. -/
def Obligations.TripleLightingIsThreeSingles : Prop :=
  ∀ (sf lm : Bool) (s : State),
    ∀ p ∈ [(Instr.nct sf lm, Instr.ncs sf lm), (.ncct sf lm, .nccs sf lm),
      (.ncdt sf lm, .ncds sf lm)],
    ∃ a b c, exec p.2 s = .next a ∧
      exec p.2 { a with file := { a.file with v0 := s.file.v1 } } = .next b ∧
      exec p.2 { b with file := { b.file with v0 := s.file.v2 } } = .next c ∧
      exec p.1 s = .next { c with file := { c.file with
        v0 := s.file.v0, flag := a.file.flag ||| b.file.flag ||| c.file.flag } }

/-- R150, R152: RTPS projects V0 with the depth cue, under RTP_IR3_QUIRK (log entry 8), the quotient
that of the divider and its table (log entry 6). -/
def Obligations.RtpsResult : Prop :=
  ∀ (sf lm : Bool) (s : State), ∃ t, exec (.rtps sf lm) s = .next t ∧
    Vertex sf lm true s.file.v0 s.file t.file ∧ t.pending = s.pending ∧ t.reply = s.reply

/-- R151, R152: RTPT projects V0, V1, V2 in order, the depth cue with the last; FLAG collects the
three (log entries 6 and 8 as in RTPS). -/
def Obligations.RtptResult : Prop :=
  ∀ (sf lm : Bool) (s : State), ∃ (t : State) (a b c : RegFile), exec (.rtpt sf lm) s = .next t ∧
    Vertex sf lm false s.file.v0 s.file a ∧ Vertex sf lm false s.file.v1 a b ∧
    Vertex sf lm true s.file.v2 b c ∧
    t.file = { c with flag := a.flag ||| b.flag ||| c.flag } ∧ t.pending = s.pending ∧
    t.reply = s.reply

/-- R274: straight out of reset RTPS takes the divide overflow path: `SZ3 = 0`, `SXY2 = 0` and FLAG
reads 0x80020000. -/
def Obligations.RtpsFromResetOverflowsTheDivide : Prop :=
  ∀ sf lm : Bool, ∃ t, step (given (.exec (encode (.rtps sf lm))) .reset) = .next t ∧
    t.file.sz3 = 0 ∧ t.file.sxy2 = ⟨0, 0⟩ ∧ view 63 t.file = 0x80020000

end
end

