-- ==== Sys2Proof/Laws/Access.lean ====
section
/-!
SUPPORT. Register access. Names and indices correspond (10_state.md R61); a plain store changes the
word of its own index and of the indices derived from it, and no other (20_memory.md R78); the packing
functions of 46_register_access.md undo one another; `DUMP` and `RESTORE` entry by entry.
-/
namespace Sys2Proof.Machine
@[simp] theorem Reg.ofIndex_index (r : Reg) : Reg.ofIndex r.index = r := by cases r <;> rfl

@[simp] theorem Reg.index_ofIndex (i : Fin 64) : (Reg.ofIndex i).index = i := by revert i; decide

theorem Reg.mem_all (r : Reg) : r ∈ Reg.all := by cases r <;> decide

/-! Which field of the file an index stores into -/

/-- The register file's field an index stores into, named by the field's first index. -/
def Reg.home : Reg → Nat
  | .vxy0 | .vz0 => 0
  | .vxy1 | .vz1 => 1
  | .vxy2 | .vz2 => 2
  | .ir1 | .ir2 | .ir3 | .irgb | .orgb => 9
  | .sxy2 | .sxyp => 14
  | .mac1 | .mac2 | .mac3 => 25
  | .rt11rt12 | .rt13rt21 | .rt22rt23 | .rt31rt32 | .rt33 => 32
  | .trX | .trY | .trZ => 37
  | .l11l12 | .l13l21 | .l22l23 | .l31l32 | .l33 => 40
  | .rbk | .gbk | .bbk => 45
  | .lr1lr2 | .lr3lg1 | .lg2lg3 | .lb1lb2 | .lb3 => 48
  | .rfc | .gfc | .bfc => 53
  | r => r.index.val

/-- `g` has the fields of `f` except the one whose first index is `n`. -/
structure OtherFields (n : Nat) (f g : RegFile) : Prop where
  v0 : n = 0 ∨ g.v0 = f.v0
  v1 : n = 1 ∨ g.v1 = f.v1
  v2 : n = 2 ∨ g.v2 = f.v2
  rgbc : n = 6 ∨ g.rgbc = f.rgbc
  otz : n = 7 ∨ g.otz = f.otz
  ir0 : n = 8 ∨ g.ir0 = f.ir0
  ir : n = 9 ∨ g.ir = f.ir
  sxy0 : n = 12 ∨ g.sxy0 = f.sxy0
  sxy1 : n = 13 ∨ g.sxy1 = f.sxy1
  sxy2 : n = 14 ∨ g.sxy2 = f.sxy2
  sz0 : n = 16 ∨ g.sz0 = f.sz0
  sz1 : n = 17 ∨ g.sz1 = f.sz1
  sz2 : n = 18 ∨ g.sz2 = f.sz2
  sz3 : n = 19 ∨ g.sz3 = f.sz3
  rgb0 : n = 20 ∨ g.rgb0 = f.rgb0
  rgb1 : n = 21 ∨ g.rgb1 = f.rgb1
  rgb2 : n = 22 ∨ g.rgb2 = f.rgb2
  res1 : n = 23 ∨ g.res1 = f.res1
  mac0 : n = 24 ∨ g.mac0 = f.mac0
  mac : n = 25 ∨ g.mac = f.mac
  lzcs : n = 30 ∨ g.lzcs = f.lzcs
  lzcr : n = 31 ∨ g.lzcr = f.lzcr
  rt : n = 32 ∨ g.rt = f.rt
  tr : n = 37 ∨ g.tr = f.tr
  llm : n = 40 ∨ g.llm = f.llm
  bk : n = 45 ∨ g.bk = f.bk
  lcm : n = 48 ∨ g.lcm = f.lcm
  fc : n = 53 ∨ g.fc = f.fc
  ofx : n = 56 ∨ g.ofx = f.ofx
  ofy : n = 57 ∨ g.ofy = f.ofy
  h : n = 58 ∨ g.h = f.h
  dqa : n = 59 ∨ g.dqa = f.dqa
  dqb : n = 60 ∨ g.dqb = f.dqb
  zsf3 : n = 61 ∨ g.zsf3 = f.zsf3
  zsf4 : n = 62 ∨ g.zsf4 = f.zsf4
  flag : n = 63 ∨ g.flag = f.flag

theorem storeReg_otherFields (r : Reg) (v : Word) (f : RegFile) :
    OtherFields r.home f (storeReg r v f) := by
  cases r <;> (simp only [storeReg]; constructor) <;> first | exact .inr rfl | exact .inl rfl

/-- A word depends on the field of its index alone. -/
theorem readReg_of_otherFields {n : Nat} {f g : RegFile} (e : OtherFields n f g) (cfg : Config)
    {q : Reg} (hq : n ≠ q.home) : readReg cfg q g = readReg cfg q f := by
  cases q
  case vxy0 => simp only [readReg, e.v0.resolve_left hq]
  case vz0 => simp only [readReg, e.v0.resolve_left hq]
  case vxy1 => simp only [readReg, e.v1.resolve_left hq]
  case vz1 => simp only [readReg, e.v1.resolve_left hq]
  case vxy2 => simp only [readReg, e.v2.resolve_left hq]
  case vz2 => simp only [readReg, e.v2.resolve_left hq]
  case rgbc => simp only [readReg, e.rgbc.resolve_left hq]
  case otz => simp only [readReg, e.otz.resolve_left hq]
  case ir0 => simp only [readReg, e.ir0.resolve_left hq]
  case ir1 => simp only [readReg, e.ir.resolve_left hq]
  case ir2 => simp only [readReg, e.ir.resolve_left hq]
  case ir3 => simp only [readReg, e.ir.resolve_left hq]
  case irgb => simp only [readReg, e.ir.resolve_left hq]
  case orgb => simp only [readReg, e.ir.resolve_left hq]
  case sxy0 => simp only [readReg, e.sxy0.resolve_left hq]
  case sxy1 => simp only [readReg, e.sxy1.resolve_left hq]
  case sxy2 => simp only [readReg, e.sxy2.resolve_left hq]
  case sxyp => simp only [readReg, e.sxy2.resolve_left hq]
  case sz0 => simp only [readReg, e.sz0.resolve_left hq]
  case sz1 => simp only [readReg, e.sz1.resolve_left hq]
  case sz2 => simp only [readReg, e.sz2.resolve_left hq]
  case sz3 => simp only [readReg, e.sz3.resolve_left hq]
  case rgb0 => simp only [readReg, e.rgb0.resolve_left hq]
  case rgb1 => simp only [readReg, e.rgb1.resolve_left hq]
  case rgb2 => simp only [readReg, e.rgb2.resolve_left hq]
  case res1 => simp only [readReg, e.res1.resolve_left hq]
  case mac0 => simp only [readReg, e.mac0.resolve_left hq]
  case mac1 => simp only [readReg, e.mac.resolve_left hq]
  case mac2 => simp only [readReg, e.mac.resolve_left hq]
  case mac3 => simp only [readReg, e.mac.resolve_left hq]
  case lzcs => simp only [readReg, e.lzcs.resolve_left hq]
  case lzcr => simp only [readReg, e.lzcr.resolve_left hq]
  case rt11rt12 => simp only [readReg, e.rt.resolve_left hq]
  case rt13rt21 => simp only [readReg, e.rt.resolve_left hq]
  case rt22rt23 => simp only [readReg, e.rt.resolve_left hq]
  case rt31rt32 => simp only [readReg, e.rt.resolve_left hq]
  case rt33 => simp only [readReg, e.rt.resolve_left hq]
  case trX => simp only [readReg, e.tr.resolve_left hq]
  case trY => simp only [readReg, e.tr.resolve_left hq]
  case trZ => simp only [readReg, e.tr.resolve_left hq]
  case l11l12 => simp only [readReg, e.llm.resolve_left hq]
  case l13l21 => simp only [readReg, e.llm.resolve_left hq]
  case l22l23 => simp only [readReg, e.llm.resolve_left hq]
  case l31l32 => simp only [readReg, e.llm.resolve_left hq]
  case l33 => simp only [readReg, e.llm.resolve_left hq]
  case rbk => simp only [readReg, e.bk.resolve_left hq]
  case gbk => simp only [readReg, e.bk.resolve_left hq]
  case bbk => simp only [readReg, e.bk.resolve_left hq]
  case lr1lr2 => simp only [readReg, e.lcm.resolve_left hq]
  case lr3lg1 => simp only [readReg, e.lcm.resolve_left hq]
  case lg2lg3 => simp only [readReg, e.lcm.resolve_left hq]
  case lb1lb2 => simp only [readReg, e.lcm.resolve_left hq]
  case lb3 => simp only [readReg, e.lcm.resolve_left hq]
  case rfc => simp only [readReg, e.fc.resolve_left hq]
  case gfc => simp only [readReg, e.fc.resolve_left hq]
  case bfc => simp only [readReg, e.fc.resolve_left hq]
  case ofx => simp only [readReg, e.ofx.resolve_left hq]
  case ofy => simp only [readReg, e.ofy.resolve_left hq]
  case h => simp only [readReg, e.h.resolve_left hq]
  case dqa => simp only [readReg, e.dqa.resolve_left hq]
  case dqb => simp only [readReg, e.dqb.resolve_left hq]
  case zsf3 => simp only [readReg, e.zsf3.resolve_left hq]
  case zsf4 => simp only [readReg, e.zsf4.resolve_left hq]
  case flag => simp only [readReg, e.flag.resolve_left hq]

/-- The indices that share a field, by the field's first index. -/
def siblings : Nat → List Reg
  | 0 => [.vxy0, .vz0]
  | 1 => [.vxy1, .vz1]
  | 2 => [.vxy2, .vz2]
  | 9 => [.ir1, .ir2, .ir3, .irgb, .orgb]
  | 14 => [.sxy2, .sxyp]
  | 25 => [.mac1, .mac2, .mac3]
  | 32 => [.rt11rt12, .rt13rt21, .rt22rt23, .rt31rt32, .rt33]
  | 37 => [.trX, .trY, .trZ]
  | 40 => [.l11l12, .l13l21, .l22l23, .l31l32, .l33]
  | 45 => [.rbk, .gbk, .bbk]
  | 48 => [.lr1lr2, .lr3lg1, .lg2lg3, .lb1lb2, .lb3]
  | 53 => [.rfc, .gfc, .bfc]
  | n => [Reg.all.getD n .vxy0]

theorem mem_siblings (q : Reg) : q ∈ siblings q.home := by cases q <;> decide

/-- The indices without storage whose word an index's field determines (R226, R227). -/
def Reg.derived : Reg → List Reg
  | .ir1 | .ir2 | .ir3 => [.irgb, .orgb]
  | .sxy2 => [.sxyp]
  | _ => []

/-- A plain store changes the word of its own index and of the derived indices alone (R78). -/
theorem readReg_storeReg_of_ne (cfg : Config) {q r : Reg} (v : Word) (f : RegFile) (hne : q ≠ r)
    (hd : q ∉ r.derived) : readReg cfg q (storeReg r v f) = readReg cfg q f := by
  by_cases hh : r.home = q.home
  · have hq := mem_siblings q
    rw [← hh] at hq
    cases r <;>
      (simp only [Reg.home, siblings, List.mem_cons, List.not_mem_nil, or_false] at hq
       repeat' rcases hq with rfl | hq) <;>
      first
      | exact absurd rfl hne
      | exact absurd (List.mem_singleton.1 hq) hne
      | exact absurd (by decide) hd
      | rfl
  · exact readReg_of_otherFields (storeReg_otherFields r v f) cfg hh

/-! Packing -/

@[simp] theorem lo_append (a b : Half) : lo (a ++ b) = b := by
  apply BitVec.eq_of_getLsbD_eq
  intro i hi
  simp only [lo, BitVec.getLsbD_extractLsb', BitVec.getLsbD_append, hi, decide_true,
    Bool.true_and, zero_add, if_true]

@[simp] theorem hi_append (a b : Half) : hi (a ++ b) = a := by
  apply BitVec.eq_of_getLsbD_eq
  intro i hi
  simp only [Machine.hi, BitVec.getLsbD_extractLsb', BitVec.getLsbD_append, hi, decide_true,
    Bool.true_and]
  rw [if_neg (by omega), show 16 + i - 16 = i by omega]

@[simp] theorem hi_append_lo (v : Word) : hi v ++ lo v = v := by
  apply BitVec.eq_of_getLsbD_eq
  intro i hi
  simp only [Machine.hi, lo, BitVec.getLsbD_append, BitVec.getLsbD_extractLsb']
  split
  · simp [*]
  · rw [show 16 + (i - 16) = i by omega]; simp; omega

@[simp] theorem lo_readSigned (h : Half) : lo (readSigned h) = h := by
  apply BitVec.eq_of_getLsbD_eq
  intro i hi
  simp [lo, readSigned, BitVec.getLsbD_signExtend, hi]
  omega

@[simp] theorem lo_readUnsigned (h : Half) : lo (readUnsigned h) = h := by
  apply BitVec.eq_of_getLsbD_eq
  intro i hi
  simp [lo, readUnsigned, hi]
  omega

@[simp] theorem lo_readH (b : Bool) (h : Half) : lo (readH b h) = h := by
  cases b <;> simp [readH]

@[simp] theorem unpackColour_packColour (c : Colour) : unpackColour (packColour c) = c := by
  cases c
  simp only [unpackColour, packColour, Colour.mk.injEq]
  refine ⟨?_, ?_, ?_, ?_⟩ <;>
  · apply BitVec.eq_of_getLsbD_eq
    intro i hi
    simp only [BitVec.getLsbD_extractLsb', BitVec.getLsbD_append, hi, decide_true, Bool.true_and]
    interval_cases i <;> rfl

@[simp] theorem packColour_unpackColour (v : Word) : packColour (unpackColour v) = v := by
  apply BitVec.eq_of_getLsbD_eq
  intro i hi
  simp only [unpackColour, packColour, BitVec.getLsbD_append, BitVec.getLsbD_extractLsb']
  interval_cases i <;> simp

@[simp] theorem flagStored_flagView (w : Flags) : flagStored (flagView w) = w := by
  apply BitVec.eq_of_getLsbD_eq
  intro i hi
  simp only [flagStored, flagView, BitVec.getLsbD_extractLsb', BitVec.getLsbD_append, hi,
    decide_true, Bool.true_and]
  rw [if_neg (by omega), if_pos (by omega)]
  congr 1
  omega

theorem signRun_pos (v : Word) : 1 ≤ signRun v := by
  simp [signRun, List.range_succ_eq_map]

theorem signRun_le (v : Word) : signRun v ≤ 32 := by
  unfold signRun
  exact (List.takeWhile_sublist _).length_le.trans (by simp)

/-! Dump and restore -/

@[simp] theorem dumpFile_get (cfg : Config) (f : RegFile) (i : Fin 64) :
    (dumpFile cfg f)[i] = readReg cfg (Reg.ofIndex i) f := by
  simp [dumpFile, Reg.ofIndex]

/-- All that `RESTORE` does: every stored field comes from the words alone (R246). -/
theorem restoreFile_eq (d : DumpWords) (f : RegFile) : restoreFile d f = {
  v0 := ⟨lo d[0], hi d[0], lo d[1]⟩
  v1 := ⟨lo d[2], hi d[2], lo d[3]⟩
  v2 := ⟨lo d[4], hi d[4], lo d[5]⟩
  rgbc := unpackColour d[6]
  otz := lo d[7]
  ir0 := lo d[8]
  ir := ⟨lo d[9], lo d[10], lo d[11]⟩
  sxy0 := ⟨lo d[12], hi d[12]⟩
  sxy1 := ⟨lo d[13], hi d[13]⟩
  sxy2 := ⟨lo d[14], hi d[14]⟩
  sz0 := lo d[16]
  sz1 := lo d[17]
  sz2 := lo d[18]
  sz3 := lo d[19]
  rgb0 := unpackColour d[20]
  rgb1 := unpackColour d[21]
  rgb2 := unpackColour d[22]
  res1 := d[23]
  mac0 := d[24]
  mac := ⟨d[25], d[26], d[27]⟩
  lzcs := d[30]
  lzcr := d[31].setWidth 6
  rt := ⟨⟨lo d[32], hi d[32], lo d[33]⟩,
    ⟨hi d[33], lo d[34], hi d[34]⟩, ⟨lo d[35], hi d[35], lo d[36]⟩⟩
  tr := ⟨d[37], d[38], d[39]⟩
  llm := ⟨⟨lo d[40], hi d[40], lo d[41]⟩,
    ⟨hi d[41], lo d[42], hi d[42]⟩, ⟨lo d[43], hi d[43], lo d[44]⟩⟩
  bk := ⟨d[45], d[46], d[47]⟩
  lcm := ⟨⟨lo d[48], hi d[48], lo d[49]⟩,
    ⟨hi d[49], lo d[50], hi d[50]⟩, ⟨lo d[51], hi d[51], lo d[52]⟩⟩
  fc := ⟨d[53], d[54], d[55]⟩
  ofx := d[56]
  ofy := d[57]
  h := lo d[58]
  dqa := lo d[59]
  dqb := d[60]
  zsf3 := lo d[61]
  zsf4 := lo d[62]
  flag := flagStored d[63] } := rfl

end Sys2Proof.Machine
end

