-- ==== Sys2Proof/Laws/Arith.lean ====
section
/-!
SUPPORT. The laws of the integer primitives (00_scope.md R9): bounds, saturation as a maximum of a
minimum, what the wrapping range check keeps of a sum, and the bounds of stored fields.
-/

namespace Sys2Proof.Machine

theorem clamp_eq_max_min {v lo hi : Int} (hle : lo ≤ hi) : clamp v lo hi = max lo (min hi v) := by
  unfold clamp
  split
  · omega
  · split <;> omega

theorem clamp_mem {v lo hi : Int} (hle : lo ≤ hi) : lo ≤ clamp v lo hi ∧ clamp v lo hi ≤ hi := by
  rw [clamp_eq_max_min hle]
  omega

theorem clamp_eq_self_iff {v lo hi : Int} (hle : lo ≤ hi) :
    clamp v lo hi = v ↔ ¬ (v < lo ∨ v > hi) := by
  rw [clamp_eq_max_min hle]
  omega

@[simp] theorem irLow_false : irLow false = -0x8000 := rfl
@[simp] theorem irLow_true : irLow true = 0 := rfl

theorem irLow_mem (lm : Bool) : -0x8000 ≤ irLow lm ∧ irLow lm ≤ 0 := by cases lm <;> simp

theorem sext_mem (v : Int) : -2 ^ 43 ≤ sext 44 v ∧ sext 44 v ≤ 2 ^ 43 - 1 := by
  simp only [sext]
  split <;> omega

theorem sext_eq_self {v : Int} (hlo : -2 ^ 43 ≤ v) (hhi : v ≤ 2 ^ 43 - 1) : sext 44 v = v := by
  simp only [sext]
  split <;> omega

theorem sext_emod (v : Int) : sext 44 v % 2 ^ 44 = v % 2 ^ 44 := by
  simp only [sext]
  split <;> omega

theorem sext_eq_bmod (v : Int) : sext 44 v = v.bmod (2 ^ 44) := by
  rw [Int.bmod_def]
  simp only [sext]
  omega

theorem sext32_eq_toInt (v : Int) : sext 32 v = (BitVec.ofInt 32 v).toInt := by
  rw [BitVec.toInt_ofInt, Int.bmod_def]
  simp only [sext]
  omega

/-- A 32-bit value is its own signed reading. -/
theorem sext32_eq_self {v : Int} (hlo : -2 ^ 31 ≤ v) (hhi : v ≤ 2 ^ 31 - 1) : sext 32 v = v := by
  simp only [sext]
  split <;> omega

/-! The wide accumulator -/

theorem wideValue_mem (cfg : Config) (v : Int) :
    -2 ^ 43 ≤ wideValue cfg v ∧ wideValue cfg v ≤ 2 ^ 43 - 1 := by
  unfold wideValue
  split
  · exact sext_mem v
  · exact clamp_mem (by decide)

/-- In range the check changes nothing, under either reading (R113). -/
theorem wideValue_eq_self (cfg : Config) {v : Int} (hlo : -2 ^ 43 ≤ v) (hhi : v ≤ 2 ^ 43 - 1) :
    wideValue cfg v = v := by
  unfold wideValue
  split
  · exact sext_eq_self hlo hhi
  · exact (clamp_eq_self_iff (by decide)).2 (by omega)

@[simp] theorem wideValue_config (v : Int) : wideValue config v = sext 44 v := rfl

/-- The low 44 bits of a sum do not see the check of one of its terms (R113, `wrap`). -/
theorem sext_add_sext_emod (v w : Int) : (sext 44 v + w) % 2 ^ 44 = (v + w) % 2 ^ 44 := by
  rw [Int.add_emod, sext_emod, ← Int.add_emod]

/-- The stored word is determined by the sum modulo 2^44 (R114). -/
theorem macWord_congr {v w : Int} {sh : Nat} (hmod : v % 2 ^ 44 = w % 2 ^ 44) :
    macWord config v sh = macWord config w sh := by
  have hs : sext 44 v = sext 44 w := by simp only [sext, hmod]
  simp only [macWord, wideValue_config, hs]

/-- "the stored MAC is simply bits sh+31 : sh of v" (R114, derived, under `wrap`). -/
theorem macWord_shiftOf (v : Int) (sf : Bool) :
    macWord config v (shiftOf sf) = BitVec.ofInt 32 (asr v (shiftOf sf)) := by
  simp only [macWord, wideValue_config]
  apply BitVec.eq_of_toInt_eq
  simp only [BitVec.toInt_ofInt, Int.bmod_def, asr, sext]
  cases sf <;> simp only [shiftOf, Bool.false_eq_true, ↓reduceIte] <;> omega

/-! Stored fields -/

theorem half_toInt_mem (x : Half) : -0x8000 ≤ x.toInt ∧ x.toInt ≤ 0x7FFF := by
  have h1 := BitVec.le_toInt x
  have h2 := BitVec.toInt_lt (x := x)
  norm_num at h1 h2 ⊢
  omega

theorem word_toInt_mem (x : Word) : -2 ^ 31 ≤ x.toInt ∧ x.toInt ≤ 2 ^ 31 - 1 := by
  have h1 := BitVec.le_toInt x
  have h2 := BitVec.toInt_lt (x := x)
  norm_num at h1 h2 ⊢
  omega

theorem byte_toNat_le (x : Byte) : x.toNat ≤ 255 := by
  have := x.isLt
  omega

/-- The exact product of two signed 16-bit fields is within ±2^30 (R131). -/
theorem half_mul_mem (x y : Half) :
    -2 ^ 30 ≤ x.toInt * y.toInt ∧ x.toInt * y.toInt ≤ 2 ^ 30 := by
  obtain ⟨hx1, hx2⟩ := half_toInt_mem x
  obtain ⟨hy1, hy2⟩ := half_toInt_mem y
  constructor <;> nlinarith

theorem ofInt16_toInt {v : Int} (hlo : -0x8000 ≤ v) (hhi : v ≤ 0x7FFF) :
    (BitVec.ofInt 16 v).toInt = v := by
  rw [BitVec.toInt_ofInt, Int.bmod_def]
  omega

theorem ofInt16_toNat {v : Int} (hlo : 0 ≤ v) (hhi : v ≤ 0xFFFF) :
    ((BitVec.ofInt 16 v).toNat : Int) = v := by
  rw [BitVec.toNat_ofInt]
  omega

theorem ofInt8_toNat {v : Int} (hlo : 0 ≤ v) (hhi : v ≤ 255) :
    ((BitVec.ofInt 8 v).toNat : Int) = v := by
  rw [BitVec.toNat_ofInt]
  omega

/-- What `set_ir` stores, read back (R116, R130). -/
theorem irHalf_toInt (v : Int) (lm : Bool) : (irHalf v lm).toInt = clamp v (irLow lm) 0x7FFF := by
  obtain ⟨h1, h2⟩ := irLow_mem lm
  obtain ⟨h3, h4⟩ := clamp_mem (v := v) (lo := irLow lm) (hi := 0x7FFF) (by omega)
  exact ofInt16_toInt (by omega) (by omega)

theorem zHalf_toNat (v : Int) : ((zHalf v).toNat : Int) = clamp v 0 0xFFFF := by
  obtain ⟨h3, h4⟩ := clamp_mem (v := v) (lo := 0) (hi := 0xFFFF) (by decide)
  exact ofInt16_toNat h3 h4

theorem screenHalf_toInt (v : Int) : (screenHalf v).toInt = clamp v (-0x400) 0x3FF := by
  obtain ⟨h3, h4⟩ := clamp_mem (v := v) (lo := -0x400) (hi := 0x3FF) (by decide)
  exact ofInt16_toInt (by omega) (by omega)

theorem satRgb_toNat (v : Int) : ((satRgb v).toNat : Int) = clamp v 0 255 := by
  obtain ⟨h3, h4⟩ := clamp_mem (v := v) (lo := 0) (hi := 255) (by decide)
  exact ofInt8_toNat h3 h4

end Sys2Proof.Machine
end

