-- ==== Sys2Proof/Laws/Decode.lean ====
section
/-!
SUPPORT. The fields of an instruction word (30_encoding.md R92): each is read from its own bits
alone, each is where the encoder puts it, and decoding is a function of the fields.
-/

namespace Sys2Proof

/-! The selectors and their two-bit values -/

@[simp] theorem MatrixSel.ofBits_bits (m : MatrixSel) : MatrixSel.ofBits m.bits = m := by
  cases m <;> rfl

@[simp] theorem MatrixSel.bits_ofBits (b : BitVec 2) : (MatrixSel.ofBits b).bits = b := by
  revert b; decide

@[simp] theorem VectorSel.ofBits_bits (v : VectorSel) : VectorSel.ofBits v.bits = v := by
  cases v <;> rfl

@[simp] theorem VectorSel.bits_ofBits (b : BitVec 2) : (VectorSel.ofBits b).bits = b := by
  revert b; decide

@[simp] theorem TransSel.ofBits_bits (c : TransSel) : TransSel.ofBits c.bits = c := by
  cases c <;> rfl

@[simp] theorem TransSel.bits_ofBits (b : BitVec 2) : (TransSel.ofBits b).bits = b := by
  revert b; decide

/-! A field is read from its own bits -/

/-- Two words that agree on the bits of a mask agree on every bit the mask has. -/
theorem getLsbD_of_and_eq {w u m : Word} (h : w &&& m = u &&& m) {i : Nat}
    (hi : m.getLsbD i = true) : w.getLsbD i = u.getLsbD i := by
  have := congrArg (fun x : Word => x.getLsbD i) h
  simpa [hi] using this

/-- Two words that agree on the bits of a mask agree on a field inside the mask. -/
theorem extractLsb'_of_and_eq {w u m : Word} (h : w &&& m = u &&& m) {start len : Nat}
    (hm : ∀ i < len, m.getLsbD (start + i) = true) :
    w.extractLsb' start len = u.extractLsb' start len := by
  apply BitVec.eq_of_getLsbD_eq
  intro i hi
  simp only [BitVec.getLsbD_extractLsb', hi, decide_true, Bool.true_and]
  exact getLsbD_of_and_eq h (hm i hi)

theorem fnField_of_and_eq {w u m : Word} (h : w &&& m = u &&& m)
    (hm : ∀ i < 6, m.getLsbD i = true) : fnField w = fnField u := by
  unfold fnField
  rw [extractLsb'_of_and_eq h (by simpa using hm)]

/-- A function code as an index of the table. -/
theorem fnField_eq {w : Word} {fn : BitVec 6} (h : w.extractLsb' 0 6 = fn) :
    fnField w = fn.toFin := by rw [← h]; rfl

/-! A field is where the encoder puts it -/

section Fields

variable (sf lm : Bool) (mx : MatrixSel) (v : VectorSel) (cv : TransSel) (fn : BitVec 6)

theorem fieldsWord_sf : sfField (fieldsWord sf mx v cv lm fn) = sf := by
  simp only [sfField, fieldsWord, BitVec.getLsbD_append]
  cases sf <;> rfl

theorem fieldsWord_lm : lmField (fieldsWord sf mx v cv lm fn) = lm := by
  simp only [lmField, fieldsWord, BitVec.getLsbD_append]
  cases lm <;> rfl

theorem fieldsWord_fn : (fieldsWord sf mx v cv lm fn).extractLsb' 0 6 = fn := by
  apply BitVec.eq_of_getLsbD_eq
  intro i hi
  simp only [fieldsWord, BitVec.getLsbD_extractLsb', BitVec.getLsbD_append, hi, decide_true,
    Bool.true_and, zero_add]
  interval_cases i <;> rfl

theorem fieldsWord_mx : mxField (fieldsWord sf mx v cv lm fn) = mx := by
  have : (fieldsWord sf mx v cv lm fn).extractLsb' 17 2 = mx.bits := by
    apply BitVec.eq_of_getLsbD_eq
    intro i hi
    simp only [fieldsWord, BitVec.getLsbD_extractLsb', BitVec.getLsbD_append, hi, decide_true,
      Bool.true_and]
    interval_cases i <;> rfl
  rw [mxField, this, MatrixSel.ofBits_bits]

theorem fieldsWord_v : vField (fieldsWord sf mx v cv lm fn) = v := by
  have : (fieldsWord sf mx v cv lm fn).extractLsb' 15 2 = v.bits := by
    apply BitVec.eq_of_getLsbD_eq
    intro i hi
    simp only [fieldsWord, BitVec.getLsbD_extractLsb', BitVec.getLsbD_append, hi, decide_true,
      Bool.true_and]
    interval_cases i <;> rfl
  rw [vField, this, VectorSel.ofBits_bits]

theorem fieldsWord_cv : cvField (fieldsWord sf mx v cv lm fn) = cv := by
  have : (fieldsWord sf mx v cv lm fn).extractLsb' 13 2 = cv.bits := by
    apply BitVec.eq_of_getLsbD_eq
    intro i hi
    simp only [fieldsWord, BitVec.getLsbD_extractLsb', BitVec.getLsbD_append, hi, decide_true,
      Bool.true_and]
    interval_cases i <;> rfl
  rw [cvField, this, TransSel.ofBits_bits]

end Fields

/-! The masks -/

/-- What a handler can honour: the function code; `sf` and `lm` too; the selectors too (R92, R93). -/
theorem honouredMask_cases (i : Instr) :
    honouredMask i = 0x3F ∨ honouredMask i = 0x8043F ∨ honouredMask i = 0xFE43F := by
  cases i <;> simp [honouredMask]

/-- Every handler honours the function code (R92). -/
theorem honouredMask_fn (i : Instr) : ∀ k < 6, (honouredMask i).getLsbD k = true := by
  rcases honouredMask_cases i with h | h | h <;> rw [h] <;> decide

end Sys2Proof
end

