-- ==== Sys2Proof/Laws/Flags.lean ====
section
/-!
SUPPORT. What each flag operation does to each condition (40_primitives.md R110): a condition holds
after iff it held before or the operation's test for it succeeded. Together with `flags_ext` these
determine FLAG bit by bit.
-/

namespace Sys2Proof.Machine

/-- Every condition, in bit order from 30 to 12. -/
def FlagBit.all : List FlagBit :=
  [.mac1Pos, .mac2Pos, .mac3Pos, .mac1Neg, .mac2Neg, .mac3Neg, .ir1Sat, .ir2Sat, .ir3Sat,
   .colRSat, .colGSat, .colBSat, .szOtzSat, .divOvf, .mac0Pos, .mac0Neg, .sxSat, .sySat, .ir0Sat]

theorem FlagBit.mem_all (b : FlagBit) : b ∈ FlagBit.all := by cases b <;> decide

theorem FlagBit.position_bounds (b : FlagBit) : 12 ≤ b.position ∧ b.position ≤ 30 := by
  cases b <;> decide

theorem flagHas_mask (b c : FlagBit) : flagHas b.mask c = decide (c = b) := by
  cases b <;> cases c <;> decide

@[simp] theorem flagHas_zero (c : FlagBit) : flagHas 0 c = false := by simp [flagHas]

@[simp] theorem flagHas_or (w u : Flags) (c : FlagBit) :
    flagHas (w ||| u) c = (flagHas w c || flagHas u c) := by simp [flagHas]

@[simp] theorem flagHas_raiseIf (p : Prop) [Decidable p] (b : FlagBit) (w : Flags) (c : FlagBit) :
    flagHas (raiseIf p b w) c = (flagHas w c || (decide p && decide (c = b))) := by
  unfold raiseIf
  split <;> simp [flagHas_mask, *]

/-- FLAG is determined by its conditions. -/
theorem flags_ext {w u : Flags} (hall : ∀ c, flagHas w c = flagHas u c) : w = u := by
  apply BitVec.eq_of_getLsbD_eq
  intro i hi
  have key : ∃ c : FlagBit, c.position - 12 = i := by
    interval_cases i
    exacts [⟨.ir0Sat, rfl⟩, ⟨.sySat, rfl⟩, ⟨.sxSat, rfl⟩, ⟨.mac0Neg, rfl⟩, ⟨.mac0Pos, rfl⟩,
      ⟨.divOvf, rfl⟩, ⟨.szOtzSat, rfl⟩, ⟨.colBSat, rfl⟩, ⟨.colGSat, rfl⟩, ⟨.colRSat, rfl⟩,
      ⟨.ir3Sat, rfl⟩, ⟨.ir2Sat, rfl⟩, ⟨.ir1Sat, rfl⟩, ⟨.mac3Neg, rfl⟩, ⟨.mac2Neg, rfl⟩,
      ⟨.mac1Neg, rfl⟩, ⟨.mac3Pos, rfl⟩, ⟨.mac2Pos, rfl⟩, ⟨.mac1Pos, rfl⟩]
  obtain ⟨c, rfl⟩ := key
  exact hall c

/-- R110 as an equivalence: a condition is recorded iff it was, or it is this one and it arose. -/
theorem flagHas_raiseIf_iff {p : Prop} [Decidable p] {b : FlagBit} {w : Flags} {c : FlagBit} :
    flagHas (raiseIf p b w) c = true ↔ flagHas w c = true ∨ (c = b ∧ p) := by
  simp [and_comm]

theorem flagHas_wideFlags {l : Lane} {v : Int} {w : Flags} {c : FlagBit} :
    flagHas (wideFlags l v w) c = true ↔
      flagHas w c = true ∨ (c = macPos l ∧ v > 2 ^ 43 - 1) ∨ (c = macNeg l ∧ v < -2 ^ 43) := by
  simp only [wideFlags, flagHas_raiseIf_iff, or_assoc]

theorem flagHas_mac0Flags {v : Int} {w : Flags} {c : FlagBit} :
    flagHas (mac0Flags v w) c = true ↔
      flagHas w c = true ∨ (c = .mac0Pos ∧ v > 2 ^ 31 - 1) ∨ (c = .mac0Neg ∧ v < -2 ^ 31) := by
  simp only [mac0Flags, flagHas_raiseIf_iff, or_assoc]

theorem flagHas_irFlags {l : Lane} {v : Int} {lm : Bool} {w : Flags} {c : FlagBit} :
    flagHas (irFlags l v lm w) c = true ↔
      flagHas w c = true ∨ (c = irSat l ∧ (v < irLow lm ∨ v > 0x7FFF)) := by
  simp only [irFlags, flagHas_raiseIf_iff]

theorem flagHas_satRgbFlag {b : FlagBit} {v : Int} {w : Flags} {c : FlagBit} :
    flagHas (satRgbFlag b v w) c = true ↔ flagHas w c = true ∨ (c = b ∧ (v < 0 ∨ v > 255)) := by
  simp only [satRgbFlag, flagHas_raiseIf_iff]

theorem flagHas_zFlags {v : Int} {w : Flags} {c : FlagBit} :
    flagHas (zFlags v w) c = true ↔
      flagHas w c = true ∨ (c = .szOtzSat ∧ (v < 0 ∨ v > 0xFFFF)) := by
  simp only [zFlags, flagHas_raiseIf_iff]

theorem flagHas_divideFlag {m n : Nat} {w : Flags} {c : FlagBit} :
    flagHas (divideFlag m n w) c = true ↔ flagHas w c = true ∨ (c = .divOvf ∧ m ≥ 2 * n) := by
  simp only [divideFlag, flagHas_raiseIf_iff]

/-- The three range checks of a lane (R126). -/
theorem flagHas_sumFlags {l : Lane} {a : Triple Int} {w : Flags} {c : FlagBit} :
    flagHas (sumFlags l a w) c = true ↔
      flagHas w c = true
        ∨ (c = macPos l ∧ (a.l1 > 2 ^ 43 - 1 ∨ a.l2 > 2 ^ 43 - 1 ∨ a.l3 > 2 ^ 43 - 1))
        ∨ (c = macNeg l ∧ (a.l1 < -2 ^ 43 ∨ a.l2 < -2 ^ 43 ∨ a.l3 < -2 ^ 43)) := by
  simp only [sumFlags, flagHas_wideFlags]
  tauto

/-- Lane by lane: what three operations that each only add conditions record together. -/
theorem flagHas_lanes {op : Lane → Flags → Flags} {cond : Lane → FlagBit → Prop}
    (hop : ∀ l w c, flagHas (op l w) c = true ↔ flagHas w c = true ∨ cond l c) (w : Flags)
    (c : FlagBit) :
    flagHas (op .l3 (op .l2 (op .l1 w))) c = true ↔ flagHas w c = true ∨ ∃ l, cond l c := by
  simp only [hop]
  constructor
  · rintro (((hw | h1) | h2) | h3)
    exacts [.inl hw, .inr ⟨_, h1⟩, .inr ⟨_, h2⟩, .inr ⟨_, h3⟩]
  · rintro (hw | ⟨l, hl⟩)
    · exact .inl (.inl (.inl hw))
    · cases l
      exacts [.inl (.inl (.inr hl)), .inl (.inr hl), .inr hl]

/-! A flag operation only adds to the stored bits it starts from. -/

theorem raiseIf_or (p : Prop) [Decidable p] (b : FlagBit) (w u : Flags) :
    raiseIf p b (w ||| u) = w ||| raiseIf p b u := by
  apply flags_ext
  intro c
  simp [Bool.or_assoc]

theorem wideFlags_or (l : Lane) (v : Int) (w u : Flags) :
    wideFlags l v (w ||| u) = w ||| wideFlags l v u := by simp only [wideFlags, raiseIf_or]

theorem sumFlags_or (l : Lane) (a : Triple Int) (w u : Flags) :
    sumFlags l a (w ||| u) = w ||| sumFlags l a u := by simp only [sumFlags, wideFlags_or]

theorem mac0Flags_or (v : Int) (w u : Flags) :
    mac0Flags v (w ||| u) = w ||| mac0Flags v u := by simp only [mac0Flags, raiseIf_or]

theorem irFlags_or (l : Lane) (v : Int) (lm : Bool) (w u : Flags) :
    irFlags l v lm (w ||| u) = w ||| irFlags l v lm u := by simp only [irFlags, raiseIf_or]

theorem satRgbFlag_or (b : FlagBit) (v : Int) (w u : Flags) :
    satRgbFlag b v (w ||| u) = w ||| satRgbFlag b v u := by simp only [satRgbFlag, raiseIf_or]

theorem zFlags_or (v : Int) (w u : Flags) :
    zFlags v (w ||| u) = w ||| zFlags v u := by simp only [zFlags, raiseIf_or]

theorem divideFlag_or (m n : Nat) (w u : Flags) :
    divideFlag m n (w ||| u) = w ||| divideFlag m n u := by simp only [divideFlag, raiseIf_or]

end Sys2Proof.Machine
end

