-- ==== Sys2Proof/Laws/State.lean ====
section
/-!
SUPPORT. What each shared operation leaves in each field of the register file, one lemma per field
per operation, each true by unfolding one record update; and the components of a triple after an
update.
-/

namespace Sys2Proof

@[simp] theorem Triple.get_l1 {α : Type} (t : Triple α) : t.get .l1 = t.l1 := rfl
@[simp] theorem Triple.get_l2 {α : Type} (t : Triple α) : t.get .l2 = t.l2 := rfl
@[simp] theorem Triple.get_l3 {α : Type} (t : Triple α) : t.get .l3 = t.l3 := rfl
@[simp] theorem Triple.set_l1 {α : Type} (t : Triple α) (a : α) : t.set .l1 a = ⟨a, t.l2, t.l3⟩ := rfl
@[simp] theorem Triple.set_l2 {α : Type} (t : Triple α) (a : α) : t.set .l2 a = ⟨t.l1, a, t.l3⟩ := rfl
@[simp] theorem Triple.set_l3 {α : Type} (t : Triple α) (a : α) : t.set .l3 a = ⟨t.l1, t.l2, a⟩ := rfl

@[simp] theorem Triple.get_set_same {α : Type} (t : Triple α) (l : Lane) (a : α) :
    (t.set l a).get l = a := by cases l <;> rfl

theorem Triple.get_set_of_ne {α : Type} (t : Triple α) {l m : Lane} (a : α) (hne : m ≠ l) :
    (t.set l a).get m = t.get m := by
  cases l <;> cases m <;> first | rfl | exact absurd rfl hne

theorem Triple.ext_get {α : Type} {t u : Triple α} (hall : ∀ l, t.get l = u.get l) : t = u :=
  Triple.ext (hall .l1) (hall .l2) (hall .l3)

namespace Machine

variable (f : RegFile)

/-! prologue -/

@[simp] theorem prologue_v0 (cfg : Config) : (prologue cfg f).v0 = f.v0 := rfl
@[simp] theorem prologue_v1 (cfg : Config) : (prologue cfg f).v1 = f.v1 := rfl
@[simp] theorem prologue_v2 (cfg : Config) : (prologue cfg f).v2 = f.v2 := rfl
@[simp] theorem prologue_rgbc (cfg : Config) : (prologue cfg f).rgbc = f.rgbc := rfl
@[simp] theorem prologue_otz (cfg : Config) : (prologue cfg f).otz = f.otz := rfl
@[simp] theorem prologue_ir0 (cfg : Config) : (prologue cfg f).ir0 = f.ir0 := rfl
@[simp] theorem prologue_ir (cfg : Config) : (prologue cfg f).ir = f.ir := rfl
@[simp] theorem prologue_sxy0 (cfg : Config) : (prologue cfg f).sxy0 = f.sxy0 := rfl
@[simp] theorem prologue_sxy1 (cfg : Config) : (prologue cfg f).sxy1 = f.sxy1 := rfl
@[simp] theorem prologue_sxy2 (cfg : Config) : (prologue cfg f).sxy2 = f.sxy2 := rfl
@[simp] theorem prologue_sz0 (cfg : Config) : (prologue cfg f).sz0 = f.sz0 := rfl
@[simp] theorem prologue_sz1 (cfg : Config) : (prologue cfg f).sz1 = f.sz1 := rfl
@[simp] theorem prologue_sz2 (cfg : Config) : (prologue cfg f).sz2 = f.sz2 := rfl
@[simp] theorem prologue_sz3 (cfg : Config) : (prologue cfg f).sz3 = f.sz3 := rfl
@[simp] theorem prologue_rgb0 (cfg : Config) : (prologue cfg f).rgb0 = f.rgb0 := rfl
@[simp] theorem prologue_rgb1 (cfg : Config) : (prologue cfg f).rgb1 = f.rgb1 := rfl
@[simp] theorem prologue_rgb2 (cfg : Config) : (prologue cfg f).rgb2 = f.rgb2 := rfl
@[simp] theorem prologue_res1 (cfg : Config) : (prologue cfg f).res1 = f.res1 := rfl
@[simp] theorem prologue_mac0 (cfg : Config) : (prologue cfg f).mac0 = f.mac0 := rfl
@[simp] theorem prologue_mac (cfg : Config) : (prologue cfg f).mac = f.mac := rfl
@[simp] theorem prologue_lzcs (cfg : Config) : (prologue cfg f).lzcs = f.lzcs := rfl
@[simp] theorem prologue_lzcr (cfg : Config) : (prologue cfg f).lzcr = f.lzcr := rfl
@[simp] theorem prologue_rt (cfg : Config) : (prologue cfg f).rt = f.rt := rfl
@[simp] theorem prologue_tr (cfg : Config) : (prologue cfg f).tr = f.tr := rfl
@[simp] theorem prologue_llm (cfg : Config) : (prologue cfg f).llm = f.llm := rfl
@[simp] theorem prologue_bk (cfg : Config) : (prologue cfg f).bk = f.bk := rfl
@[simp] theorem prologue_lcm (cfg : Config) : (prologue cfg f).lcm = f.lcm := rfl
@[simp] theorem prologue_fc (cfg : Config) : (prologue cfg f).fc = f.fc := rfl
@[simp] theorem prologue_ofx (cfg : Config) : (prologue cfg f).ofx = f.ofx := rfl
@[simp] theorem prologue_ofy (cfg : Config) : (prologue cfg f).ofy = f.ofy := rfl
@[simp] theorem prologue_h (cfg : Config) : (prologue cfg f).h = f.h := rfl
@[simp] theorem prologue_dqa (cfg : Config) : (prologue cfg f).dqa = f.dqa := rfl
@[simp] theorem prologue_dqb (cfg : Config) : (prologue cfg f).dqb = f.dqb := rfl
@[simp] theorem prologue_zsf3 (cfg : Config) : (prologue cfg f).zsf3 = f.zsf3 := rfl
@[simp] theorem prologue_zsf4 (cfg : Config) : (prologue cfg f).zsf4 = f.zsf4 := rfl
@[simp] theorem prologue_flag (cfg : Config) : (prologue cfg f).flag =
    if cfg.flagClearedAtExec then 0 else f.flag := rfl

/-! setMac -/

@[simp] theorem setMac_v0 (cfg : Config) (l : Lane) (v : Int) (sh : Nat) : (setMac cfg l v sh f).v0 =
    f.v0 := rfl
@[simp] theorem setMac_v1 (cfg : Config) (l : Lane) (v : Int) (sh : Nat) : (setMac cfg l v sh f).v1 =
    f.v1 := rfl
@[simp] theorem setMac_v2 (cfg : Config) (l : Lane) (v : Int) (sh : Nat) : (setMac cfg l v sh f).v2 =
    f.v2 := rfl
@[simp] theorem setMac_rgbc (cfg : Config) (l : Lane) (v : Int) (sh : Nat) : (setMac cfg l v sh f).rgbc =
    f.rgbc := rfl
@[simp] theorem setMac_otz (cfg : Config) (l : Lane) (v : Int) (sh : Nat) : (setMac cfg l v sh f).otz =
    f.otz := rfl
@[simp] theorem setMac_ir0 (cfg : Config) (l : Lane) (v : Int) (sh : Nat) : (setMac cfg l v sh f).ir0 =
    f.ir0 := rfl
@[simp] theorem setMac_ir (cfg : Config) (l : Lane) (v : Int) (sh : Nat) : (setMac cfg l v sh f).ir =
    f.ir := rfl
@[simp] theorem setMac_sxy0 (cfg : Config) (l : Lane) (v : Int) (sh : Nat) : (setMac cfg l v sh f).sxy0 =
    f.sxy0 := rfl
@[simp] theorem setMac_sxy1 (cfg : Config) (l : Lane) (v : Int) (sh : Nat) : (setMac cfg l v sh f).sxy1 =
    f.sxy1 := rfl
@[simp] theorem setMac_sxy2 (cfg : Config) (l : Lane) (v : Int) (sh : Nat) : (setMac cfg l v sh f).sxy2 =
    f.sxy2 := rfl
@[simp] theorem setMac_sz0 (cfg : Config) (l : Lane) (v : Int) (sh : Nat) : (setMac cfg l v sh f).sz0 =
    f.sz0 := rfl
@[simp] theorem setMac_sz1 (cfg : Config) (l : Lane) (v : Int) (sh : Nat) : (setMac cfg l v sh f).sz1 =
    f.sz1 := rfl
@[simp] theorem setMac_sz2 (cfg : Config) (l : Lane) (v : Int) (sh : Nat) : (setMac cfg l v sh f).sz2 =
    f.sz2 := rfl
@[simp] theorem setMac_sz3 (cfg : Config) (l : Lane) (v : Int) (sh : Nat) : (setMac cfg l v sh f).sz3 =
    f.sz3 := rfl
@[simp] theorem setMac_rgb0 (cfg : Config) (l : Lane) (v : Int) (sh : Nat) : (setMac cfg l v sh f).rgb0 =
    f.rgb0 := rfl
@[simp] theorem setMac_rgb1 (cfg : Config) (l : Lane) (v : Int) (sh : Nat) : (setMac cfg l v sh f).rgb1 =
    f.rgb1 := rfl
@[simp] theorem setMac_rgb2 (cfg : Config) (l : Lane) (v : Int) (sh : Nat) : (setMac cfg l v sh f).rgb2 =
    f.rgb2 := rfl
@[simp] theorem setMac_res1 (cfg : Config) (l : Lane) (v : Int) (sh : Nat) : (setMac cfg l v sh f).res1 =
    f.res1 := rfl
@[simp] theorem setMac_mac0 (cfg : Config) (l : Lane) (v : Int) (sh : Nat) : (setMac cfg l v sh f).mac0 =
    f.mac0 := rfl
@[simp] theorem setMac_mac (cfg : Config) (l : Lane) (v : Int) (sh : Nat) : (setMac cfg l v sh f).mac =
    f.mac.set l (macWord cfg v sh) := rfl
@[simp] theorem setMac_lzcs (cfg : Config) (l : Lane) (v : Int) (sh : Nat) : (setMac cfg l v sh f).lzcs =
    f.lzcs := rfl
@[simp] theorem setMac_lzcr (cfg : Config) (l : Lane) (v : Int) (sh : Nat) : (setMac cfg l v sh f).lzcr =
    f.lzcr := rfl
@[simp] theorem setMac_rt (cfg : Config) (l : Lane) (v : Int) (sh : Nat) : (setMac cfg l v sh f).rt =
    f.rt := rfl
@[simp] theorem setMac_tr (cfg : Config) (l : Lane) (v : Int) (sh : Nat) : (setMac cfg l v sh f).tr =
    f.tr := rfl
@[simp] theorem setMac_llm (cfg : Config) (l : Lane) (v : Int) (sh : Nat) : (setMac cfg l v sh f).llm =
    f.llm := rfl
@[simp] theorem setMac_bk (cfg : Config) (l : Lane) (v : Int) (sh : Nat) : (setMac cfg l v sh f).bk =
    f.bk := rfl
@[simp] theorem setMac_lcm (cfg : Config) (l : Lane) (v : Int) (sh : Nat) : (setMac cfg l v sh f).lcm =
    f.lcm := rfl
@[simp] theorem setMac_fc (cfg : Config) (l : Lane) (v : Int) (sh : Nat) : (setMac cfg l v sh f).fc =
    f.fc := rfl
@[simp] theorem setMac_ofx (cfg : Config) (l : Lane) (v : Int) (sh : Nat) : (setMac cfg l v sh f).ofx =
    f.ofx := rfl
@[simp] theorem setMac_ofy (cfg : Config) (l : Lane) (v : Int) (sh : Nat) : (setMac cfg l v sh f).ofy =
    f.ofy := rfl
@[simp] theorem setMac_h (cfg : Config) (l : Lane) (v : Int) (sh : Nat) : (setMac cfg l v sh f).h =
    f.h := rfl
@[simp] theorem setMac_dqa (cfg : Config) (l : Lane) (v : Int) (sh : Nat) : (setMac cfg l v sh f).dqa =
    f.dqa := rfl
@[simp] theorem setMac_dqb (cfg : Config) (l : Lane) (v : Int) (sh : Nat) : (setMac cfg l v sh f).dqb =
    f.dqb := rfl
@[simp] theorem setMac_zsf3 (cfg : Config) (l : Lane) (v : Int) (sh : Nat) : (setMac cfg l v sh f).zsf3 =
    f.zsf3 := rfl
@[simp] theorem setMac_zsf4 (cfg : Config) (l : Lane) (v : Int) (sh : Nat) : (setMac cfg l v sh f).zsf4 =
    f.zsf4 := rfl
@[simp] theorem setMac_flag (cfg : Config) (l : Lane) (v : Int) (sh : Nat) : (setMac cfg l v sh f).flag =
    wideFlags l v f.flag := rfl

/-! storeSums -/

@[simp] theorem storeSums_v0 (cfg : Config) (l : Lane) (a : Triple Int) (sh : Nat) : (storeSums cfg l a sh f).v0 =
    f.v0 := rfl
@[simp] theorem storeSums_v1 (cfg : Config) (l : Lane) (a : Triple Int) (sh : Nat) : (storeSums cfg l a sh f).v1 =
    f.v1 := rfl
@[simp] theorem storeSums_v2 (cfg : Config) (l : Lane) (a : Triple Int) (sh : Nat) : (storeSums cfg l a sh f).v2 =
    f.v2 := rfl
@[simp] theorem storeSums_rgbc (cfg : Config) (l : Lane) (a : Triple Int) (sh : Nat) : (storeSums cfg l a sh f).rgbc =
    f.rgbc := rfl
@[simp] theorem storeSums_otz (cfg : Config) (l : Lane) (a : Triple Int) (sh : Nat) : (storeSums cfg l a sh f).otz =
    f.otz := rfl
@[simp] theorem storeSums_ir0 (cfg : Config) (l : Lane) (a : Triple Int) (sh : Nat) : (storeSums cfg l a sh f).ir0 =
    f.ir0 := rfl
@[simp] theorem storeSums_ir (cfg : Config) (l : Lane) (a : Triple Int) (sh : Nat) : (storeSums cfg l a sh f).ir =
    f.ir := rfl
@[simp] theorem storeSums_sxy0 (cfg : Config) (l : Lane) (a : Triple Int) (sh : Nat) : (storeSums cfg l a sh f).sxy0 =
    f.sxy0 := rfl
@[simp] theorem storeSums_sxy1 (cfg : Config) (l : Lane) (a : Triple Int) (sh : Nat) : (storeSums cfg l a sh f).sxy1 =
    f.sxy1 := rfl
@[simp] theorem storeSums_sxy2 (cfg : Config) (l : Lane) (a : Triple Int) (sh : Nat) : (storeSums cfg l a sh f).sxy2 =
    f.sxy2 := rfl
@[simp] theorem storeSums_sz0 (cfg : Config) (l : Lane) (a : Triple Int) (sh : Nat) : (storeSums cfg l a sh f).sz0 =
    f.sz0 := rfl
@[simp] theorem storeSums_sz1 (cfg : Config) (l : Lane) (a : Triple Int) (sh : Nat) : (storeSums cfg l a sh f).sz1 =
    f.sz1 := rfl
@[simp] theorem storeSums_sz2 (cfg : Config) (l : Lane) (a : Triple Int) (sh : Nat) : (storeSums cfg l a sh f).sz2 =
    f.sz2 := rfl
@[simp] theorem storeSums_sz3 (cfg : Config) (l : Lane) (a : Triple Int) (sh : Nat) : (storeSums cfg l a sh f).sz3 =
    f.sz3 := rfl
@[simp] theorem storeSums_rgb0 (cfg : Config) (l : Lane) (a : Triple Int) (sh : Nat) : (storeSums cfg l a sh f).rgb0 =
    f.rgb0 := rfl
@[simp] theorem storeSums_rgb1 (cfg : Config) (l : Lane) (a : Triple Int) (sh : Nat) : (storeSums cfg l a sh f).rgb1 =
    f.rgb1 := rfl
@[simp] theorem storeSums_rgb2 (cfg : Config) (l : Lane) (a : Triple Int) (sh : Nat) : (storeSums cfg l a sh f).rgb2 =
    f.rgb2 := rfl
@[simp] theorem storeSums_res1 (cfg : Config) (l : Lane) (a : Triple Int) (sh : Nat) : (storeSums cfg l a sh f).res1 =
    f.res1 := rfl
@[simp] theorem storeSums_mac0 (cfg : Config) (l : Lane) (a : Triple Int) (sh : Nat) : (storeSums cfg l a sh f).mac0 =
    f.mac0 := rfl
@[simp] theorem storeSums_mac (cfg : Config) (l : Lane) (a : Triple Int) (sh : Nat) : (storeSums cfg l a sh f).mac =
    f.mac.set l (macWord cfg a.l3 sh) := rfl
@[simp] theorem storeSums_lzcs (cfg : Config) (l : Lane) (a : Triple Int) (sh : Nat) : (storeSums cfg l a sh f).lzcs =
    f.lzcs := rfl
@[simp] theorem storeSums_lzcr (cfg : Config) (l : Lane) (a : Triple Int) (sh : Nat) : (storeSums cfg l a sh f).lzcr =
    f.lzcr := rfl
@[simp] theorem storeSums_rt (cfg : Config) (l : Lane) (a : Triple Int) (sh : Nat) : (storeSums cfg l a sh f).rt =
    f.rt := rfl
@[simp] theorem storeSums_tr (cfg : Config) (l : Lane) (a : Triple Int) (sh : Nat) : (storeSums cfg l a sh f).tr =
    f.tr := rfl
@[simp] theorem storeSums_llm (cfg : Config) (l : Lane) (a : Triple Int) (sh : Nat) : (storeSums cfg l a sh f).llm =
    f.llm := rfl
@[simp] theorem storeSums_bk (cfg : Config) (l : Lane) (a : Triple Int) (sh : Nat) : (storeSums cfg l a sh f).bk =
    f.bk := rfl
@[simp] theorem storeSums_lcm (cfg : Config) (l : Lane) (a : Triple Int) (sh : Nat) : (storeSums cfg l a sh f).lcm =
    f.lcm := rfl
@[simp] theorem storeSums_fc (cfg : Config) (l : Lane) (a : Triple Int) (sh : Nat) : (storeSums cfg l a sh f).fc =
    f.fc := rfl
@[simp] theorem storeSums_ofx (cfg : Config) (l : Lane) (a : Triple Int) (sh : Nat) : (storeSums cfg l a sh f).ofx =
    f.ofx := rfl
@[simp] theorem storeSums_ofy (cfg : Config) (l : Lane) (a : Triple Int) (sh : Nat) : (storeSums cfg l a sh f).ofy =
    f.ofy := rfl
@[simp] theorem storeSums_h (cfg : Config) (l : Lane) (a : Triple Int) (sh : Nat) : (storeSums cfg l a sh f).h =
    f.h := rfl
@[simp] theorem storeSums_dqa (cfg : Config) (l : Lane) (a : Triple Int) (sh : Nat) : (storeSums cfg l a sh f).dqa =
    f.dqa := rfl
@[simp] theorem storeSums_dqb (cfg : Config) (l : Lane) (a : Triple Int) (sh : Nat) : (storeSums cfg l a sh f).dqb =
    f.dqb := rfl
@[simp] theorem storeSums_zsf3 (cfg : Config) (l : Lane) (a : Triple Int) (sh : Nat) : (storeSums cfg l a sh f).zsf3 =
    f.zsf3 := rfl
@[simp] theorem storeSums_zsf4 (cfg : Config) (l : Lane) (a : Triple Int) (sh : Nat) : (storeSums cfg l a sh f).zsf4 =
    f.zsf4 := rfl
@[simp] theorem storeSums_flag (cfg : Config) (l : Lane) (a : Triple Int) (sh : Nat) : (storeSums cfg l a sh f).flag =
    sumFlags l a f.flag := rfl

/-! setMac0 -/

@[simp] theorem setMac0_v0 (v : Int) : (setMac0 v f).v0 = f.v0 := rfl
@[simp] theorem setMac0_v1 (v : Int) : (setMac0 v f).v1 = f.v1 := rfl
@[simp] theorem setMac0_v2 (v : Int) : (setMac0 v f).v2 = f.v2 := rfl
@[simp] theorem setMac0_rgbc (v : Int) : (setMac0 v f).rgbc = f.rgbc := rfl
@[simp] theorem setMac0_otz (v : Int) : (setMac0 v f).otz = f.otz := rfl
@[simp] theorem setMac0_ir0 (v : Int) : (setMac0 v f).ir0 = f.ir0 := rfl
@[simp] theorem setMac0_ir (v : Int) : (setMac0 v f).ir = f.ir := rfl
@[simp] theorem setMac0_sxy0 (v : Int) : (setMac0 v f).sxy0 = f.sxy0 := rfl
@[simp] theorem setMac0_sxy1 (v : Int) : (setMac0 v f).sxy1 = f.sxy1 := rfl
@[simp] theorem setMac0_sxy2 (v : Int) : (setMac0 v f).sxy2 = f.sxy2 := rfl
@[simp] theorem setMac0_sz0 (v : Int) : (setMac0 v f).sz0 = f.sz0 := rfl
@[simp] theorem setMac0_sz1 (v : Int) : (setMac0 v f).sz1 = f.sz1 := rfl
@[simp] theorem setMac0_sz2 (v : Int) : (setMac0 v f).sz2 = f.sz2 := rfl
@[simp] theorem setMac0_sz3 (v : Int) : (setMac0 v f).sz3 = f.sz3 := rfl
@[simp] theorem setMac0_rgb0 (v : Int) : (setMac0 v f).rgb0 = f.rgb0 := rfl
@[simp] theorem setMac0_rgb1 (v : Int) : (setMac0 v f).rgb1 = f.rgb1 := rfl
@[simp] theorem setMac0_rgb2 (v : Int) : (setMac0 v f).rgb2 = f.rgb2 := rfl
@[simp] theorem setMac0_res1 (v : Int) : (setMac0 v f).res1 = f.res1 := rfl
@[simp] theorem setMac0_mac0 (v : Int) : (setMac0 v f).mac0 = BitVec.ofInt 32 v := rfl
@[simp] theorem setMac0_mac (v : Int) : (setMac0 v f).mac = f.mac := rfl
@[simp] theorem setMac0_lzcs (v : Int) : (setMac0 v f).lzcs = f.lzcs := rfl
@[simp] theorem setMac0_lzcr (v : Int) : (setMac0 v f).lzcr = f.lzcr := rfl
@[simp] theorem setMac0_rt (v : Int) : (setMac0 v f).rt = f.rt := rfl
@[simp] theorem setMac0_tr (v : Int) : (setMac0 v f).tr = f.tr := rfl
@[simp] theorem setMac0_llm (v : Int) : (setMac0 v f).llm = f.llm := rfl
@[simp] theorem setMac0_bk (v : Int) : (setMac0 v f).bk = f.bk := rfl
@[simp] theorem setMac0_lcm (v : Int) : (setMac0 v f).lcm = f.lcm := rfl
@[simp] theorem setMac0_fc (v : Int) : (setMac0 v f).fc = f.fc := rfl
@[simp] theorem setMac0_ofx (v : Int) : (setMac0 v f).ofx = f.ofx := rfl
@[simp] theorem setMac0_ofy (v : Int) : (setMac0 v f).ofy = f.ofy := rfl
@[simp] theorem setMac0_h (v : Int) : (setMac0 v f).h = f.h := rfl
@[simp] theorem setMac0_dqa (v : Int) : (setMac0 v f).dqa = f.dqa := rfl
@[simp] theorem setMac0_dqb (v : Int) : (setMac0 v f).dqb = f.dqb := rfl
@[simp] theorem setMac0_zsf3 (v : Int) : (setMac0 v f).zsf3 = f.zsf3 := rfl
@[simp] theorem setMac0_zsf4 (v : Int) : (setMac0 v f).zsf4 = f.zsf4 := rfl
@[simp] theorem setMac0_flag (v : Int) : (setMac0 v f).flag = mac0Flags v f.flag := rfl

/-! setIr -/

@[simp] theorem setIr_v0 (l : Lane) (v : Int) (lm : Bool) : (setIr l v lm f).v0 = f.v0 := rfl
@[simp] theorem setIr_v1 (l : Lane) (v : Int) (lm : Bool) : (setIr l v lm f).v1 = f.v1 := rfl
@[simp] theorem setIr_v2 (l : Lane) (v : Int) (lm : Bool) : (setIr l v lm f).v2 = f.v2 := rfl
@[simp] theorem setIr_rgbc (l : Lane) (v : Int) (lm : Bool) : (setIr l v lm f).rgbc = f.rgbc := rfl
@[simp] theorem setIr_otz (l : Lane) (v : Int) (lm : Bool) : (setIr l v lm f).otz = f.otz := rfl
@[simp] theorem setIr_ir0 (l : Lane) (v : Int) (lm : Bool) : (setIr l v lm f).ir0 = f.ir0 := rfl
@[simp] theorem setIr_ir (l : Lane) (v : Int) (lm : Bool) : (setIr l v lm f).ir =
    f.ir.set l (irHalf v lm) := rfl
@[simp] theorem setIr_sxy0 (l : Lane) (v : Int) (lm : Bool) : (setIr l v lm f).sxy0 = f.sxy0 := rfl
@[simp] theorem setIr_sxy1 (l : Lane) (v : Int) (lm : Bool) : (setIr l v lm f).sxy1 = f.sxy1 := rfl
@[simp] theorem setIr_sxy2 (l : Lane) (v : Int) (lm : Bool) : (setIr l v lm f).sxy2 = f.sxy2 := rfl
@[simp] theorem setIr_sz0 (l : Lane) (v : Int) (lm : Bool) : (setIr l v lm f).sz0 = f.sz0 := rfl
@[simp] theorem setIr_sz1 (l : Lane) (v : Int) (lm : Bool) : (setIr l v lm f).sz1 = f.sz1 := rfl
@[simp] theorem setIr_sz2 (l : Lane) (v : Int) (lm : Bool) : (setIr l v lm f).sz2 = f.sz2 := rfl
@[simp] theorem setIr_sz3 (l : Lane) (v : Int) (lm : Bool) : (setIr l v lm f).sz3 = f.sz3 := rfl
@[simp] theorem setIr_rgb0 (l : Lane) (v : Int) (lm : Bool) : (setIr l v lm f).rgb0 = f.rgb0 := rfl
@[simp] theorem setIr_rgb1 (l : Lane) (v : Int) (lm : Bool) : (setIr l v lm f).rgb1 = f.rgb1 := rfl
@[simp] theorem setIr_rgb2 (l : Lane) (v : Int) (lm : Bool) : (setIr l v lm f).rgb2 = f.rgb2 := rfl
@[simp] theorem setIr_res1 (l : Lane) (v : Int) (lm : Bool) : (setIr l v lm f).res1 = f.res1 := rfl
@[simp] theorem setIr_mac0 (l : Lane) (v : Int) (lm : Bool) : (setIr l v lm f).mac0 = f.mac0 := rfl
@[simp] theorem setIr_mac (l : Lane) (v : Int) (lm : Bool) : (setIr l v lm f).mac = f.mac := rfl
@[simp] theorem setIr_lzcs (l : Lane) (v : Int) (lm : Bool) : (setIr l v lm f).lzcs = f.lzcs := rfl
@[simp] theorem setIr_lzcr (l : Lane) (v : Int) (lm : Bool) : (setIr l v lm f).lzcr = f.lzcr := rfl
@[simp] theorem setIr_rt (l : Lane) (v : Int) (lm : Bool) : (setIr l v lm f).rt = f.rt := rfl
@[simp] theorem setIr_tr (l : Lane) (v : Int) (lm : Bool) : (setIr l v lm f).tr = f.tr := rfl
@[simp] theorem setIr_llm (l : Lane) (v : Int) (lm : Bool) : (setIr l v lm f).llm = f.llm := rfl
@[simp] theorem setIr_bk (l : Lane) (v : Int) (lm : Bool) : (setIr l v lm f).bk = f.bk := rfl
@[simp] theorem setIr_lcm (l : Lane) (v : Int) (lm : Bool) : (setIr l v lm f).lcm = f.lcm := rfl
@[simp] theorem setIr_fc (l : Lane) (v : Int) (lm : Bool) : (setIr l v lm f).fc = f.fc := rfl
@[simp] theorem setIr_ofx (l : Lane) (v : Int) (lm : Bool) : (setIr l v lm f).ofx = f.ofx := rfl
@[simp] theorem setIr_ofy (l : Lane) (v : Int) (lm : Bool) : (setIr l v lm f).ofy = f.ofy := rfl
@[simp] theorem setIr_h (l : Lane) (v : Int) (lm : Bool) : (setIr l v lm f).h = f.h := rfl
@[simp] theorem setIr_dqa (l : Lane) (v : Int) (lm : Bool) : (setIr l v lm f).dqa = f.dqa := rfl
@[simp] theorem setIr_dqb (l : Lane) (v : Int) (lm : Bool) : (setIr l v lm f).dqb = f.dqb := rfl
@[simp] theorem setIr_zsf3 (l : Lane) (v : Int) (lm : Bool) : (setIr l v lm f).zsf3 = f.zsf3 := rfl
@[simp] theorem setIr_zsf4 (l : Lane) (v : Int) (lm : Bool) : (setIr l v lm f).zsf4 = f.zsf4 := rfl
@[simp] theorem setIr_flag (l : Lane) (v : Int) (lm : Bool) : (setIr l v lm f).flag =
    irFlags l v lm f.flag := rfl

/-! setIrFromMac -/

@[simp] theorem setIrFromMac_v0 (l : Lane) (lm : Bool) : (setIrFromMac l lm f).v0 =
    f.v0 := setIr_v0 f l _ lm
@[simp] theorem setIrFromMac_v1 (l : Lane) (lm : Bool) : (setIrFromMac l lm f).v1 =
    f.v1 := setIr_v1 f l _ lm
@[simp] theorem setIrFromMac_v2 (l : Lane) (lm : Bool) : (setIrFromMac l lm f).v2 =
    f.v2 := setIr_v2 f l _ lm
@[simp] theorem setIrFromMac_rgbc (l : Lane) (lm : Bool) : (setIrFromMac l lm f).rgbc =
    f.rgbc := setIr_rgbc f l _ lm
@[simp] theorem setIrFromMac_otz (l : Lane) (lm : Bool) : (setIrFromMac l lm f).otz =
    f.otz := setIr_otz f l _ lm
@[simp] theorem setIrFromMac_ir0 (l : Lane) (lm : Bool) : (setIrFromMac l lm f).ir0 =
    f.ir0 := setIr_ir0 f l _ lm
@[simp] theorem setIrFromMac_ir (l : Lane) (lm : Bool) : (setIrFromMac l lm f).ir =
    f.ir.set l (irHalf (f.mac.get l).toInt lm) := setIr_ir f l _ lm
@[simp] theorem setIrFromMac_sxy0 (l : Lane) (lm : Bool) : (setIrFromMac l lm f).sxy0 =
    f.sxy0 := setIr_sxy0 f l _ lm
@[simp] theorem setIrFromMac_sxy1 (l : Lane) (lm : Bool) : (setIrFromMac l lm f).sxy1 =
    f.sxy1 := setIr_sxy1 f l _ lm
@[simp] theorem setIrFromMac_sxy2 (l : Lane) (lm : Bool) : (setIrFromMac l lm f).sxy2 =
    f.sxy2 := setIr_sxy2 f l _ lm
@[simp] theorem setIrFromMac_sz0 (l : Lane) (lm : Bool) : (setIrFromMac l lm f).sz0 =
    f.sz0 := setIr_sz0 f l _ lm
@[simp] theorem setIrFromMac_sz1 (l : Lane) (lm : Bool) : (setIrFromMac l lm f).sz1 =
    f.sz1 := setIr_sz1 f l _ lm
@[simp] theorem setIrFromMac_sz2 (l : Lane) (lm : Bool) : (setIrFromMac l lm f).sz2 =
    f.sz2 := setIr_sz2 f l _ lm
@[simp] theorem setIrFromMac_sz3 (l : Lane) (lm : Bool) : (setIrFromMac l lm f).sz3 =
    f.sz3 := setIr_sz3 f l _ lm
@[simp] theorem setIrFromMac_rgb0 (l : Lane) (lm : Bool) : (setIrFromMac l lm f).rgb0 =
    f.rgb0 := setIr_rgb0 f l _ lm
@[simp] theorem setIrFromMac_rgb1 (l : Lane) (lm : Bool) : (setIrFromMac l lm f).rgb1 =
    f.rgb1 := setIr_rgb1 f l _ lm
@[simp] theorem setIrFromMac_rgb2 (l : Lane) (lm : Bool) : (setIrFromMac l lm f).rgb2 =
    f.rgb2 := setIr_rgb2 f l _ lm
@[simp] theorem setIrFromMac_res1 (l : Lane) (lm : Bool) : (setIrFromMac l lm f).res1 =
    f.res1 := setIr_res1 f l _ lm
@[simp] theorem setIrFromMac_mac0 (l : Lane) (lm : Bool) : (setIrFromMac l lm f).mac0 =
    f.mac0 := setIr_mac0 f l _ lm
@[simp] theorem setIrFromMac_mac (l : Lane) (lm : Bool) : (setIrFromMac l lm f).mac =
    f.mac := setIr_mac f l _ lm
@[simp] theorem setIrFromMac_lzcs (l : Lane) (lm : Bool) : (setIrFromMac l lm f).lzcs =
    f.lzcs := setIr_lzcs f l _ lm
@[simp] theorem setIrFromMac_lzcr (l : Lane) (lm : Bool) : (setIrFromMac l lm f).lzcr =
    f.lzcr := setIr_lzcr f l _ lm
@[simp] theorem setIrFromMac_rt (l : Lane) (lm : Bool) : (setIrFromMac l lm f).rt =
    f.rt := setIr_rt f l _ lm
@[simp] theorem setIrFromMac_tr (l : Lane) (lm : Bool) : (setIrFromMac l lm f).tr =
    f.tr := setIr_tr f l _ lm
@[simp] theorem setIrFromMac_llm (l : Lane) (lm : Bool) : (setIrFromMac l lm f).llm =
    f.llm := setIr_llm f l _ lm
@[simp] theorem setIrFromMac_bk (l : Lane) (lm : Bool) : (setIrFromMac l lm f).bk =
    f.bk := setIr_bk f l _ lm
@[simp] theorem setIrFromMac_lcm (l : Lane) (lm : Bool) : (setIrFromMac l lm f).lcm =
    f.lcm := setIr_lcm f l _ lm
@[simp] theorem setIrFromMac_fc (l : Lane) (lm : Bool) : (setIrFromMac l lm f).fc =
    f.fc := setIr_fc f l _ lm
@[simp] theorem setIrFromMac_ofx (l : Lane) (lm : Bool) : (setIrFromMac l lm f).ofx =
    f.ofx := setIr_ofx f l _ lm
@[simp] theorem setIrFromMac_ofy (l : Lane) (lm : Bool) : (setIrFromMac l lm f).ofy =
    f.ofy := setIr_ofy f l _ lm
@[simp] theorem setIrFromMac_h (l : Lane) (lm : Bool) : (setIrFromMac l lm f).h =
    f.h := setIr_h f l _ lm
@[simp] theorem setIrFromMac_dqa (l : Lane) (lm : Bool) : (setIrFromMac l lm f).dqa =
    f.dqa := setIr_dqa f l _ lm
@[simp] theorem setIrFromMac_dqb (l : Lane) (lm : Bool) : (setIrFromMac l lm f).dqb =
    f.dqb := setIr_dqb f l _ lm
@[simp] theorem setIrFromMac_zsf3 (l : Lane) (lm : Bool) : (setIrFromMac l lm f).zsf3 =
    f.zsf3 := setIr_zsf3 f l _ lm
@[simp] theorem setIrFromMac_zsf4 (l : Lane) (lm : Bool) : (setIrFromMac l lm f).zsf4 =
    f.zsf4 := setIr_zsf4 f l _ lm
@[simp] theorem setIrFromMac_flag (l : Lane) (lm : Bool) : (setIrFromMac l lm f).flag =
    irFlags l (f.mac.get l).toInt lm f.flag := setIr_flag f l _ lm

/-! setMacIr -/

@[simp] theorem setMacIr_v0 (cfg : Config) (l : Lane) (v : Int) (sh : Nat) (lm : Bool) : (setMacIr cfg l v sh lm f).v0 =
    f.v0 := by simp only [setMacIr, setIrFromMac_v0, setMac_v0]
@[simp] theorem setMacIr_v1 (cfg : Config) (l : Lane) (v : Int) (sh : Nat) (lm : Bool) : (setMacIr cfg l v sh lm f).v1 =
    f.v1 := by simp only [setMacIr, setIrFromMac_v1, setMac_v1]
@[simp] theorem setMacIr_v2 (cfg : Config) (l : Lane) (v : Int) (sh : Nat) (lm : Bool) : (setMacIr cfg l v sh lm f).v2 =
    f.v2 := by simp only [setMacIr, setIrFromMac_v2, setMac_v2]
@[simp] theorem setMacIr_rgbc (cfg : Config) (l : Lane) (v : Int) (sh : Nat) (lm : Bool) : (setMacIr cfg l v sh lm f).rgbc =
    f.rgbc := by simp only [setMacIr, setIrFromMac_rgbc, setMac_rgbc]
@[simp] theorem setMacIr_otz (cfg : Config) (l : Lane) (v : Int) (sh : Nat) (lm : Bool) : (setMacIr cfg l v sh lm f).otz =
    f.otz := by simp only [setMacIr, setIrFromMac_otz, setMac_otz]
@[simp] theorem setMacIr_ir0 (cfg : Config) (l : Lane) (v : Int) (sh : Nat) (lm : Bool) : (setMacIr cfg l v sh lm f).ir0 =
    f.ir0 := by simp only [setMacIr, setIrFromMac_ir0, setMac_ir0]
@[simp] theorem setMacIr_ir (cfg : Config) (l : Lane) (v : Int) (sh : Nat) (lm : Bool) : (setMacIr cfg l v sh lm f).ir =
    f.ir.set l (irHalf (macWord cfg v sh).toInt lm) := by simp only [setMacIr, setIrFromMac_ir, setMac_ir, setMac_mac, Triple.get_set_same]
@[simp] theorem setMacIr_sxy0 (cfg : Config) (l : Lane) (v : Int) (sh : Nat) (lm : Bool) : (setMacIr cfg l v sh lm f).sxy0 =
    f.sxy0 := by simp only [setMacIr, setIrFromMac_sxy0, setMac_sxy0]
@[simp] theorem setMacIr_sxy1 (cfg : Config) (l : Lane) (v : Int) (sh : Nat) (lm : Bool) : (setMacIr cfg l v sh lm f).sxy1 =
    f.sxy1 := by simp only [setMacIr, setIrFromMac_sxy1, setMac_sxy1]
@[simp] theorem setMacIr_sxy2 (cfg : Config) (l : Lane) (v : Int) (sh : Nat) (lm : Bool) : (setMacIr cfg l v sh lm f).sxy2 =
    f.sxy2 := by simp only [setMacIr, setIrFromMac_sxy2, setMac_sxy2]
@[simp] theorem setMacIr_sz0 (cfg : Config) (l : Lane) (v : Int) (sh : Nat) (lm : Bool) : (setMacIr cfg l v sh lm f).sz0 =
    f.sz0 := by simp only [setMacIr, setIrFromMac_sz0, setMac_sz0]
@[simp] theorem setMacIr_sz1 (cfg : Config) (l : Lane) (v : Int) (sh : Nat) (lm : Bool) : (setMacIr cfg l v sh lm f).sz1 =
    f.sz1 := by simp only [setMacIr, setIrFromMac_sz1, setMac_sz1]
@[simp] theorem setMacIr_sz2 (cfg : Config) (l : Lane) (v : Int) (sh : Nat) (lm : Bool) : (setMacIr cfg l v sh lm f).sz2 =
    f.sz2 := by simp only [setMacIr, setIrFromMac_sz2, setMac_sz2]
@[simp] theorem setMacIr_sz3 (cfg : Config) (l : Lane) (v : Int) (sh : Nat) (lm : Bool) : (setMacIr cfg l v sh lm f).sz3 =
    f.sz3 := by simp only [setMacIr, setIrFromMac_sz3, setMac_sz3]
@[simp] theorem setMacIr_rgb0 (cfg : Config) (l : Lane) (v : Int) (sh : Nat) (lm : Bool) : (setMacIr cfg l v sh lm f).rgb0 =
    f.rgb0 := by simp only [setMacIr, setIrFromMac_rgb0, setMac_rgb0]
@[simp] theorem setMacIr_rgb1 (cfg : Config) (l : Lane) (v : Int) (sh : Nat) (lm : Bool) : (setMacIr cfg l v sh lm f).rgb1 =
    f.rgb1 := by simp only [setMacIr, setIrFromMac_rgb1, setMac_rgb1]
@[simp] theorem setMacIr_rgb2 (cfg : Config) (l : Lane) (v : Int) (sh : Nat) (lm : Bool) : (setMacIr cfg l v sh lm f).rgb2 =
    f.rgb2 := by simp only [setMacIr, setIrFromMac_rgb2, setMac_rgb2]
@[simp] theorem setMacIr_res1 (cfg : Config) (l : Lane) (v : Int) (sh : Nat) (lm : Bool) : (setMacIr cfg l v sh lm f).res1 =
    f.res1 := by simp only [setMacIr, setIrFromMac_res1, setMac_res1]
@[simp] theorem setMacIr_mac0 (cfg : Config) (l : Lane) (v : Int) (sh : Nat) (lm : Bool) : (setMacIr cfg l v sh lm f).mac0 =
    f.mac0 := by simp only [setMacIr, setIrFromMac_mac0, setMac_mac0]
@[simp] theorem setMacIr_mac (cfg : Config) (l : Lane) (v : Int) (sh : Nat) (lm : Bool) : (setMacIr cfg l v sh lm f).mac =
    f.mac.set l (macWord cfg v sh) := by simp only [setMacIr, setIrFromMac_mac, setMac_mac]
@[simp] theorem setMacIr_lzcs (cfg : Config) (l : Lane) (v : Int) (sh : Nat) (lm : Bool) : (setMacIr cfg l v sh lm f).lzcs =
    f.lzcs := by simp only [setMacIr, setIrFromMac_lzcs, setMac_lzcs]
@[simp] theorem setMacIr_lzcr (cfg : Config) (l : Lane) (v : Int) (sh : Nat) (lm : Bool) : (setMacIr cfg l v sh lm f).lzcr =
    f.lzcr := by simp only [setMacIr, setIrFromMac_lzcr, setMac_lzcr]
@[simp] theorem setMacIr_rt (cfg : Config) (l : Lane) (v : Int) (sh : Nat) (lm : Bool) : (setMacIr cfg l v sh lm f).rt =
    f.rt := by simp only [setMacIr, setIrFromMac_rt, setMac_rt]
@[simp] theorem setMacIr_tr (cfg : Config) (l : Lane) (v : Int) (sh : Nat) (lm : Bool) : (setMacIr cfg l v sh lm f).tr =
    f.tr := by simp only [setMacIr, setIrFromMac_tr, setMac_tr]
@[simp] theorem setMacIr_llm (cfg : Config) (l : Lane) (v : Int) (sh : Nat) (lm : Bool) : (setMacIr cfg l v sh lm f).llm =
    f.llm := by simp only [setMacIr, setIrFromMac_llm, setMac_llm]
@[simp] theorem setMacIr_bk (cfg : Config) (l : Lane) (v : Int) (sh : Nat) (lm : Bool) : (setMacIr cfg l v sh lm f).bk =
    f.bk := by simp only [setMacIr, setIrFromMac_bk, setMac_bk]
@[simp] theorem setMacIr_lcm (cfg : Config) (l : Lane) (v : Int) (sh : Nat) (lm : Bool) : (setMacIr cfg l v sh lm f).lcm =
    f.lcm := by simp only [setMacIr, setIrFromMac_lcm, setMac_lcm]
@[simp] theorem setMacIr_fc (cfg : Config) (l : Lane) (v : Int) (sh : Nat) (lm : Bool) : (setMacIr cfg l v sh lm f).fc =
    f.fc := by simp only [setMacIr, setIrFromMac_fc, setMac_fc]
@[simp] theorem setMacIr_ofx (cfg : Config) (l : Lane) (v : Int) (sh : Nat) (lm : Bool) : (setMacIr cfg l v sh lm f).ofx =
    f.ofx := by simp only [setMacIr, setIrFromMac_ofx, setMac_ofx]
@[simp] theorem setMacIr_ofy (cfg : Config) (l : Lane) (v : Int) (sh : Nat) (lm : Bool) : (setMacIr cfg l v sh lm f).ofy =
    f.ofy := by simp only [setMacIr, setIrFromMac_ofy, setMac_ofy]
@[simp] theorem setMacIr_h (cfg : Config) (l : Lane) (v : Int) (sh : Nat) (lm : Bool) : (setMacIr cfg l v sh lm f).h =
    f.h := by simp only [setMacIr, setIrFromMac_h, setMac_h]
@[simp] theorem setMacIr_dqa (cfg : Config) (l : Lane) (v : Int) (sh : Nat) (lm : Bool) : (setMacIr cfg l v sh lm f).dqa =
    f.dqa := by simp only [setMacIr, setIrFromMac_dqa, setMac_dqa]
@[simp] theorem setMacIr_dqb (cfg : Config) (l : Lane) (v : Int) (sh : Nat) (lm : Bool) : (setMacIr cfg l v sh lm f).dqb =
    f.dqb := by simp only [setMacIr, setIrFromMac_dqb, setMac_dqb]
@[simp] theorem setMacIr_zsf3 (cfg : Config) (l : Lane) (v : Int) (sh : Nat) (lm : Bool) : (setMacIr cfg l v sh lm f).zsf3 =
    f.zsf3 := by simp only [setMacIr, setIrFromMac_zsf3, setMac_zsf3]
@[simp] theorem setMacIr_zsf4 (cfg : Config) (l : Lane) (v : Int) (sh : Nat) (lm : Bool) : (setMacIr cfg l v sh lm f).zsf4 =
    f.zsf4 := by simp only [setMacIr, setIrFromMac_zsf4, setMac_zsf4]
@[simp] theorem setMacIr_flag (cfg : Config) (l : Lane) (v : Int) (sh : Nat) (lm : Bool) : (setMacIr cfg l v sh lm f).flag =
    irFlags l (macWord cfg v sh).toInt lm (wideFlags l v f.flag) := by simp only [setMacIr, setIrFromMac_flag, setMac_flag, setMac_mac, Triple.get_set_same]

/-! setIr0 -/

@[simp] theorem setIr0_v0 (v : Int) : (setIr0 v f).v0 = f.v0 := rfl
@[simp] theorem setIr0_v1 (v : Int) : (setIr0 v f).v1 = f.v1 := rfl
@[simp] theorem setIr0_v2 (v : Int) : (setIr0 v f).v2 = f.v2 := rfl
@[simp] theorem setIr0_rgbc (v : Int) : (setIr0 v f).rgbc = f.rgbc := rfl
@[simp] theorem setIr0_otz (v : Int) : (setIr0 v f).otz = f.otz := rfl
@[simp] theorem setIr0_ir0 (v : Int) : (setIr0 v f).ir0 = BitVec.ofInt 16 (clamp v 0 0x1000) := rfl
@[simp] theorem setIr0_ir (v : Int) : (setIr0 v f).ir = f.ir := rfl
@[simp] theorem setIr0_sxy0 (v : Int) : (setIr0 v f).sxy0 = f.sxy0 := rfl
@[simp] theorem setIr0_sxy1 (v : Int) : (setIr0 v f).sxy1 = f.sxy1 := rfl
@[simp] theorem setIr0_sxy2 (v : Int) : (setIr0 v f).sxy2 = f.sxy2 := rfl
@[simp] theorem setIr0_sz0 (v : Int) : (setIr0 v f).sz0 = f.sz0 := rfl
@[simp] theorem setIr0_sz1 (v : Int) : (setIr0 v f).sz1 = f.sz1 := rfl
@[simp] theorem setIr0_sz2 (v : Int) : (setIr0 v f).sz2 = f.sz2 := rfl
@[simp] theorem setIr0_sz3 (v : Int) : (setIr0 v f).sz3 = f.sz3 := rfl
@[simp] theorem setIr0_rgb0 (v : Int) : (setIr0 v f).rgb0 = f.rgb0 := rfl
@[simp] theorem setIr0_rgb1 (v : Int) : (setIr0 v f).rgb1 = f.rgb1 := rfl
@[simp] theorem setIr0_rgb2 (v : Int) : (setIr0 v f).rgb2 = f.rgb2 := rfl
@[simp] theorem setIr0_res1 (v : Int) : (setIr0 v f).res1 = f.res1 := rfl
@[simp] theorem setIr0_mac0 (v : Int) : (setIr0 v f).mac0 = f.mac0 := rfl
@[simp] theorem setIr0_mac (v : Int) : (setIr0 v f).mac = f.mac := rfl
@[simp] theorem setIr0_lzcs (v : Int) : (setIr0 v f).lzcs = f.lzcs := rfl
@[simp] theorem setIr0_lzcr (v : Int) : (setIr0 v f).lzcr = f.lzcr := rfl
@[simp] theorem setIr0_rt (v : Int) : (setIr0 v f).rt = f.rt := rfl
@[simp] theorem setIr0_tr (v : Int) : (setIr0 v f).tr = f.tr := rfl
@[simp] theorem setIr0_llm (v : Int) : (setIr0 v f).llm = f.llm := rfl
@[simp] theorem setIr0_bk (v : Int) : (setIr0 v f).bk = f.bk := rfl
@[simp] theorem setIr0_lcm (v : Int) : (setIr0 v f).lcm = f.lcm := rfl
@[simp] theorem setIr0_fc (v : Int) : (setIr0 v f).fc = f.fc := rfl
@[simp] theorem setIr0_ofx (v : Int) : (setIr0 v f).ofx = f.ofx := rfl
@[simp] theorem setIr0_ofy (v : Int) : (setIr0 v f).ofy = f.ofy := rfl
@[simp] theorem setIr0_h (v : Int) : (setIr0 v f).h = f.h := rfl
@[simp] theorem setIr0_dqa (v : Int) : (setIr0 v f).dqa = f.dqa := rfl
@[simp] theorem setIr0_dqb (v : Int) : (setIr0 v f).dqb = f.dqb := rfl
@[simp] theorem setIr0_zsf3 (v : Int) : (setIr0 v f).zsf3 = f.zsf3 := rfl
@[simp] theorem setIr0_zsf4 (v : Int) : (setIr0 v f).zsf4 = f.zsf4 := rfl
@[simp] theorem setIr0_flag (v : Int) : (setIr0 v f).flag =
    raiseIf (v < 0 ∨ v > 0x1000) .ir0Sat f.flag := rfl

/-! pushRgb -/

@[simp] theorem pushRgb_v0 : (pushRgb f).v0 = f.v0 := rfl
@[simp] theorem pushRgb_v1 : (pushRgb f).v1 = f.v1 := rfl
@[simp] theorem pushRgb_v2 : (pushRgb f).v2 = f.v2 := rfl
@[simp] theorem pushRgb_rgbc : (pushRgb f).rgbc = f.rgbc := rfl
@[simp] theorem pushRgb_otz : (pushRgb f).otz = f.otz := rfl
@[simp] theorem pushRgb_ir0 : (pushRgb f).ir0 = f.ir0 := rfl
@[simp] theorem pushRgb_ir : (pushRgb f).ir = f.ir := rfl
@[simp] theorem pushRgb_sxy0 : (pushRgb f).sxy0 = f.sxy0 := rfl
@[simp] theorem pushRgb_sxy1 : (pushRgb f).sxy1 = f.sxy1 := rfl
@[simp] theorem pushRgb_sxy2 : (pushRgb f).sxy2 = f.sxy2 := rfl
@[simp] theorem pushRgb_sz0 : (pushRgb f).sz0 = f.sz0 := rfl
@[simp] theorem pushRgb_sz1 : (pushRgb f).sz1 = f.sz1 := rfl
@[simp] theorem pushRgb_sz2 : (pushRgb f).sz2 = f.sz2 := rfl
@[simp] theorem pushRgb_sz3 : (pushRgb f).sz3 = f.sz3 := rfl
@[simp] theorem pushRgb_rgb0 : (pushRgb f).rgb0 = f.rgb1 := rfl
@[simp] theorem pushRgb_rgb1 : (pushRgb f).rgb1 = f.rgb2 := rfl
@[simp] theorem pushRgb_rgb2 : (pushRgb f).rgb2 =
    ⟨satRgb (macColour f.mac.l1), satRgb (macColour f.mac.l2), satRgb (macColour f.mac.l3), f.rgbc.code⟩ := rfl
@[simp] theorem pushRgb_res1 : (pushRgb f).res1 = f.res1 := rfl
@[simp] theorem pushRgb_mac0 : (pushRgb f).mac0 = f.mac0 := rfl
@[simp] theorem pushRgb_mac : (pushRgb f).mac = f.mac := rfl
@[simp] theorem pushRgb_lzcs : (pushRgb f).lzcs = f.lzcs := rfl
@[simp] theorem pushRgb_lzcr : (pushRgb f).lzcr = f.lzcr := rfl
@[simp] theorem pushRgb_rt : (pushRgb f).rt = f.rt := rfl
@[simp] theorem pushRgb_tr : (pushRgb f).tr = f.tr := rfl
@[simp] theorem pushRgb_llm : (pushRgb f).llm = f.llm := rfl
@[simp] theorem pushRgb_bk : (pushRgb f).bk = f.bk := rfl
@[simp] theorem pushRgb_lcm : (pushRgb f).lcm = f.lcm := rfl
@[simp] theorem pushRgb_fc : (pushRgb f).fc = f.fc := rfl
@[simp] theorem pushRgb_ofx : (pushRgb f).ofx = f.ofx := rfl
@[simp] theorem pushRgb_ofy : (pushRgb f).ofy = f.ofy := rfl
@[simp] theorem pushRgb_h : (pushRgb f).h = f.h := rfl
@[simp] theorem pushRgb_dqa : (pushRgb f).dqa = f.dqa := rfl
@[simp] theorem pushRgb_dqb : (pushRgb f).dqb = f.dqb := rfl
@[simp] theorem pushRgb_zsf3 : (pushRgb f).zsf3 = f.zsf3 := rfl
@[simp] theorem pushRgb_zsf4 : (pushRgb f).zsf4 = f.zsf4 := rfl
@[simp] theorem pushRgb_flag : (pushRgb f).flag =
    satRgbFlag .colBSat (macColour f.mac.l3) (satRgbFlag .colGSat (macColour f.mac.l2)
      (satRgbFlag .colRSat (macColour f.mac.l1) f.flag)) := rfl

/-! pushSz -/

@[simp] theorem pushSz_v0 (v : Int) : (pushSz v f).v0 = f.v0 := rfl
@[simp] theorem pushSz_v1 (v : Int) : (pushSz v f).v1 = f.v1 := rfl
@[simp] theorem pushSz_v2 (v : Int) : (pushSz v f).v2 = f.v2 := rfl
@[simp] theorem pushSz_rgbc (v : Int) : (pushSz v f).rgbc = f.rgbc := rfl
@[simp] theorem pushSz_otz (v : Int) : (pushSz v f).otz = f.otz := rfl
@[simp] theorem pushSz_ir0 (v : Int) : (pushSz v f).ir0 = f.ir0 := rfl
@[simp] theorem pushSz_ir (v : Int) : (pushSz v f).ir = f.ir := rfl
@[simp] theorem pushSz_sxy0 (v : Int) : (pushSz v f).sxy0 = f.sxy0 := rfl
@[simp] theorem pushSz_sxy1 (v : Int) : (pushSz v f).sxy1 = f.sxy1 := rfl
@[simp] theorem pushSz_sxy2 (v : Int) : (pushSz v f).sxy2 = f.sxy2 := rfl
@[simp] theorem pushSz_sz0 (v : Int) : (pushSz v f).sz0 = f.sz1 := rfl
@[simp] theorem pushSz_sz1 (v : Int) : (pushSz v f).sz1 = f.sz2 := rfl
@[simp] theorem pushSz_sz2 (v : Int) : (pushSz v f).sz2 = f.sz3 := rfl
@[simp] theorem pushSz_sz3 (v : Int) : (pushSz v f).sz3 = zHalf v := rfl
@[simp] theorem pushSz_rgb0 (v : Int) : (pushSz v f).rgb0 = f.rgb0 := rfl
@[simp] theorem pushSz_rgb1 (v : Int) : (pushSz v f).rgb1 = f.rgb1 := rfl
@[simp] theorem pushSz_rgb2 (v : Int) : (pushSz v f).rgb2 = f.rgb2 := rfl
@[simp] theorem pushSz_res1 (v : Int) : (pushSz v f).res1 = f.res1 := rfl
@[simp] theorem pushSz_mac0 (v : Int) : (pushSz v f).mac0 = f.mac0 := rfl
@[simp] theorem pushSz_mac (v : Int) : (pushSz v f).mac = f.mac := rfl
@[simp] theorem pushSz_lzcs (v : Int) : (pushSz v f).lzcs = f.lzcs := rfl
@[simp] theorem pushSz_lzcr (v : Int) : (pushSz v f).lzcr = f.lzcr := rfl
@[simp] theorem pushSz_rt (v : Int) : (pushSz v f).rt = f.rt := rfl
@[simp] theorem pushSz_tr (v : Int) : (pushSz v f).tr = f.tr := rfl
@[simp] theorem pushSz_llm (v : Int) : (pushSz v f).llm = f.llm := rfl
@[simp] theorem pushSz_bk (v : Int) : (pushSz v f).bk = f.bk := rfl
@[simp] theorem pushSz_lcm (v : Int) : (pushSz v f).lcm = f.lcm := rfl
@[simp] theorem pushSz_fc (v : Int) : (pushSz v f).fc = f.fc := rfl
@[simp] theorem pushSz_ofx (v : Int) : (pushSz v f).ofx = f.ofx := rfl
@[simp] theorem pushSz_ofy (v : Int) : (pushSz v f).ofy = f.ofy := rfl
@[simp] theorem pushSz_h (v : Int) : (pushSz v f).h = f.h := rfl
@[simp] theorem pushSz_dqa (v : Int) : (pushSz v f).dqa = f.dqa := rfl
@[simp] theorem pushSz_dqb (v : Int) : (pushSz v f).dqb = f.dqb := rfl
@[simp] theorem pushSz_zsf3 (v : Int) : (pushSz v f).zsf3 = f.zsf3 := rfl
@[simp] theorem pushSz_zsf4 (v : Int) : (pushSz v f).zsf4 = f.zsf4 := rfl
@[simp] theorem pushSz_flag (v : Int) : (pushSz v f).flag = zFlags v f.flag := rfl

/-! setOtz -/

@[simp] theorem setOtz_v0 (v : Int) : (setOtz v f).v0 = f.v0 := rfl
@[simp] theorem setOtz_v1 (v : Int) : (setOtz v f).v1 = f.v1 := rfl
@[simp] theorem setOtz_v2 (v : Int) : (setOtz v f).v2 = f.v2 := rfl
@[simp] theorem setOtz_rgbc (v : Int) : (setOtz v f).rgbc = f.rgbc := rfl
@[simp] theorem setOtz_otz (v : Int) : (setOtz v f).otz = zHalf v := rfl
@[simp] theorem setOtz_ir0 (v : Int) : (setOtz v f).ir0 = f.ir0 := rfl
@[simp] theorem setOtz_ir (v : Int) : (setOtz v f).ir = f.ir := rfl
@[simp] theorem setOtz_sxy0 (v : Int) : (setOtz v f).sxy0 = f.sxy0 := rfl
@[simp] theorem setOtz_sxy1 (v : Int) : (setOtz v f).sxy1 = f.sxy1 := rfl
@[simp] theorem setOtz_sxy2 (v : Int) : (setOtz v f).sxy2 = f.sxy2 := rfl
@[simp] theorem setOtz_sz0 (v : Int) : (setOtz v f).sz0 = f.sz0 := rfl
@[simp] theorem setOtz_sz1 (v : Int) : (setOtz v f).sz1 = f.sz1 := rfl
@[simp] theorem setOtz_sz2 (v : Int) : (setOtz v f).sz2 = f.sz2 := rfl
@[simp] theorem setOtz_sz3 (v : Int) : (setOtz v f).sz3 = f.sz3 := rfl
@[simp] theorem setOtz_rgb0 (v : Int) : (setOtz v f).rgb0 = f.rgb0 := rfl
@[simp] theorem setOtz_rgb1 (v : Int) : (setOtz v f).rgb1 = f.rgb1 := rfl
@[simp] theorem setOtz_rgb2 (v : Int) : (setOtz v f).rgb2 = f.rgb2 := rfl
@[simp] theorem setOtz_res1 (v : Int) : (setOtz v f).res1 = f.res1 := rfl
@[simp] theorem setOtz_mac0 (v : Int) : (setOtz v f).mac0 = f.mac0 := rfl
@[simp] theorem setOtz_mac (v : Int) : (setOtz v f).mac = f.mac := rfl
@[simp] theorem setOtz_lzcs (v : Int) : (setOtz v f).lzcs = f.lzcs := rfl
@[simp] theorem setOtz_lzcr (v : Int) : (setOtz v f).lzcr = f.lzcr := rfl
@[simp] theorem setOtz_rt (v : Int) : (setOtz v f).rt = f.rt := rfl
@[simp] theorem setOtz_tr (v : Int) : (setOtz v f).tr = f.tr := rfl
@[simp] theorem setOtz_llm (v : Int) : (setOtz v f).llm = f.llm := rfl
@[simp] theorem setOtz_bk (v : Int) : (setOtz v f).bk = f.bk := rfl
@[simp] theorem setOtz_lcm (v : Int) : (setOtz v f).lcm = f.lcm := rfl
@[simp] theorem setOtz_fc (v : Int) : (setOtz v f).fc = f.fc := rfl
@[simp] theorem setOtz_ofx (v : Int) : (setOtz v f).ofx = f.ofx := rfl
@[simp] theorem setOtz_ofy (v : Int) : (setOtz v f).ofy = f.ofy := rfl
@[simp] theorem setOtz_h (v : Int) : (setOtz v f).h = f.h := rfl
@[simp] theorem setOtz_dqa (v : Int) : (setOtz v f).dqa = f.dqa := rfl
@[simp] theorem setOtz_dqb (v : Int) : (setOtz v f).dqb = f.dqb := rfl
@[simp] theorem setOtz_zsf3 (v : Int) : (setOtz v f).zsf3 = f.zsf3 := rfl
@[simp] theorem setOtz_zsf4 (v : Int) : (setOtz v f).zsf4 = f.zsf4 := rfl
@[simp] theorem setOtz_flag (v : Int) : (setOtz v f).flag = zFlags v f.flag := rfl

/-! pushSxy -/

@[simp] theorem pushSxy_v0 (x y : Int) : (pushSxy x y f).v0 = f.v0 := rfl
@[simp] theorem pushSxy_v1 (x y : Int) : (pushSxy x y f).v1 = f.v1 := rfl
@[simp] theorem pushSxy_v2 (x y : Int) : (pushSxy x y f).v2 = f.v2 := rfl
@[simp] theorem pushSxy_rgbc (x y : Int) : (pushSxy x y f).rgbc = f.rgbc := rfl
@[simp] theorem pushSxy_otz (x y : Int) : (pushSxy x y f).otz = f.otz := rfl
@[simp] theorem pushSxy_ir0 (x y : Int) : (pushSxy x y f).ir0 = f.ir0 := rfl
@[simp] theorem pushSxy_ir (x y : Int) : (pushSxy x y f).ir = f.ir := rfl
@[simp] theorem pushSxy_sxy0 (x y : Int) : (pushSxy x y f).sxy0 = f.sxy1 := rfl
@[simp] theorem pushSxy_sxy1 (x y : Int) : (pushSxy x y f).sxy1 = f.sxy2 := rfl
@[simp] theorem pushSxy_sxy2 (x y : Int) : (pushSxy x y f).sxy2 =
    ⟨screenHalf x, screenHalf y⟩ := rfl
@[simp] theorem pushSxy_sz0 (x y : Int) : (pushSxy x y f).sz0 = f.sz0 := rfl
@[simp] theorem pushSxy_sz1 (x y : Int) : (pushSxy x y f).sz1 = f.sz1 := rfl
@[simp] theorem pushSxy_sz2 (x y : Int) : (pushSxy x y f).sz2 = f.sz2 := rfl
@[simp] theorem pushSxy_sz3 (x y : Int) : (pushSxy x y f).sz3 = f.sz3 := rfl
@[simp] theorem pushSxy_rgb0 (x y : Int) : (pushSxy x y f).rgb0 = f.rgb0 := rfl
@[simp] theorem pushSxy_rgb1 (x y : Int) : (pushSxy x y f).rgb1 = f.rgb1 := rfl
@[simp] theorem pushSxy_rgb2 (x y : Int) : (pushSxy x y f).rgb2 = f.rgb2 := rfl
@[simp] theorem pushSxy_res1 (x y : Int) : (pushSxy x y f).res1 = f.res1 := rfl
@[simp] theorem pushSxy_mac0 (x y : Int) : (pushSxy x y f).mac0 = f.mac0 := rfl
@[simp] theorem pushSxy_mac (x y : Int) : (pushSxy x y f).mac = f.mac := rfl
@[simp] theorem pushSxy_lzcs (x y : Int) : (pushSxy x y f).lzcs = f.lzcs := rfl
@[simp] theorem pushSxy_lzcr (x y : Int) : (pushSxy x y f).lzcr = f.lzcr := rfl
@[simp] theorem pushSxy_rt (x y : Int) : (pushSxy x y f).rt = f.rt := rfl
@[simp] theorem pushSxy_tr (x y : Int) : (pushSxy x y f).tr = f.tr := rfl
@[simp] theorem pushSxy_llm (x y : Int) : (pushSxy x y f).llm = f.llm := rfl
@[simp] theorem pushSxy_bk (x y : Int) : (pushSxy x y f).bk = f.bk := rfl
@[simp] theorem pushSxy_lcm (x y : Int) : (pushSxy x y f).lcm = f.lcm := rfl
@[simp] theorem pushSxy_fc (x y : Int) : (pushSxy x y f).fc = f.fc := rfl
@[simp] theorem pushSxy_ofx (x y : Int) : (pushSxy x y f).ofx = f.ofx := rfl
@[simp] theorem pushSxy_ofy (x y : Int) : (pushSxy x y f).ofy = f.ofy := rfl
@[simp] theorem pushSxy_h (x y : Int) : (pushSxy x y f).h = f.h := rfl
@[simp] theorem pushSxy_dqa (x y : Int) : (pushSxy x y f).dqa = f.dqa := rfl
@[simp] theorem pushSxy_dqb (x y : Int) : (pushSxy x y f).dqb = f.dqb := rfl
@[simp] theorem pushSxy_zsf3 (x y : Int) : (pushSxy x y f).zsf3 = f.zsf3 := rfl
@[simp] theorem pushSxy_zsf4 (x y : Int) : (pushSxy x y f).zsf4 = f.zsf4 := rfl
@[simp] theorem pushSxy_flag (x y : Int) : (pushSxy x y f).flag =
    raiseIf (y < -0x400 ∨ y > 0x3FF) .sySat
      (raiseIf (x < -0x400 ∨ x > 0x3FF) .sxSat f.flag) := rfl

/-! rtpStoreIr3 -/

@[simp] theorem rtpStoreIr3_v0 (cfg : Config) (zs : Int) (lm : Bool) : (rtpStoreIr3 cfg zs lm f).v0 =
    f.v0 := rfl
@[simp] theorem rtpStoreIr3_v1 (cfg : Config) (zs : Int) (lm : Bool) : (rtpStoreIr3 cfg zs lm f).v1 =
    f.v1 := rfl
@[simp] theorem rtpStoreIr3_v2 (cfg : Config) (zs : Int) (lm : Bool) : (rtpStoreIr3 cfg zs lm f).v2 =
    f.v2 := rfl
@[simp] theorem rtpStoreIr3_rgbc (cfg : Config) (zs : Int) (lm : Bool) : (rtpStoreIr3 cfg zs lm f).rgbc =
    f.rgbc := rfl
@[simp] theorem rtpStoreIr3_otz (cfg : Config) (zs : Int) (lm : Bool) : (rtpStoreIr3 cfg zs lm f).otz =
    f.otz := rfl
@[simp] theorem rtpStoreIr3_ir0 (cfg : Config) (zs : Int) (lm : Bool) : (rtpStoreIr3 cfg zs lm f).ir0 =
    f.ir0 := rfl
@[simp] theorem rtpStoreIr3_ir (cfg : Config) (zs : Int) (lm : Bool) : (rtpStoreIr3 cfg zs lm f).ir =
    f.ir.set .l3 (irHalf f.mac.l3.toInt lm) := rfl
@[simp] theorem rtpStoreIr3_sxy0 (cfg : Config) (zs : Int) (lm : Bool) : (rtpStoreIr3 cfg zs lm f).sxy0 =
    f.sxy0 := rfl
@[simp] theorem rtpStoreIr3_sxy1 (cfg : Config) (zs : Int) (lm : Bool) : (rtpStoreIr3 cfg zs lm f).sxy1 =
    f.sxy1 := rfl
@[simp] theorem rtpStoreIr3_sxy2 (cfg : Config) (zs : Int) (lm : Bool) : (rtpStoreIr3 cfg zs lm f).sxy2 =
    f.sxy2 := rfl
@[simp] theorem rtpStoreIr3_sz0 (cfg : Config) (zs : Int) (lm : Bool) : (rtpStoreIr3 cfg zs lm f).sz0 =
    f.sz0 := rfl
@[simp] theorem rtpStoreIr3_sz1 (cfg : Config) (zs : Int) (lm : Bool) : (rtpStoreIr3 cfg zs lm f).sz1 =
    f.sz1 := rfl
@[simp] theorem rtpStoreIr3_sz2 (cfg : Config) (zs : Int) (lm : Bool) : (rtpStoreIr3 cfg zs lm f).sz2 =
    f.sz2 := rfl
@[simp] theorem rtpStoreIr3_sz3 (cfg : Config) (zs : Int) (lm : Bool) : (rtpStoreIr3 cfg zs lm f).sz3 =
    f.sz3 := rfl
@[simp] theorem rtpStoreIr3_rgb0 (cfg : Config) (zs : Int) (lm : Bool) : (rtpStoreIr3 cfg zs lm f).rgb0 =
    f.rgb0 := rfl
@[simp] theorem rtpStoreIr3_rgb1 (cfg : Config) (zs : Int) (lm : Bool) : (rtpStoreIr3 cfg zs lm f).rgb1 =
    f.rgb1 := rfl
@[simp] theorem rtpStoreIr3_rgb2 (cfg : Config) (zs : Int) (lm : Bool) : (rtpStoreIr3 cfg zs lm f).rgb2 =
    f.rgb2 := rfl
@[simp] theorem rtpStoreIr3_res1 (cfg : Config) (zs : Int) (lm : Bool) : (rtpStoreIr3 cfg zs lm f).res1 =
    f.res1 := rfl
@[simp] theorem rtpStoreIr3_mac0 (cfg : Config) (zs : Int) (lm : Bool) : (rtpStoreIr3 cfg zs lm f).mac0 =
    f.mac0 := rfl
@[simp] theorem rtpStoreIr3_mac (cfg : Config) (zs : Int) (lm : Bool) : (rtpStoreIr3 cfg zs lm f).mac =
    f.mac := rfl
@[simp] theorem rtpStoreIr3_lzcs (cfg : Config) (zs : Int) (lm : Bool) : (rtpStoreIr3 cfg zs lm f).lzcs =
    f.lzcs := rfl
@[simp] theorem rtpStoreIr3_lzcr (cfg : Config) (zs : Int) (lm : Bool) : (rtpStoreIr3 cfg zs lm f).lzcr =
    f.lzcr := rfl
@[simp] theorem rtpStoreIr3_rt (cfg : Config) (zs : Int) (lm : Bool) : (rtpStoreIr3 cfg zs lm f).rt =
    f.rt := rfl
@[simp] theorem rtpStoreIr3_tr (cfg : Config) (zs : Int) (lm : Bool) : (rtpStoreIr3 cfg zs lm f).tr =
    f.tr := rfl
@[simp] theorem rtpStoreIr3_llm (cfg : Config) (zs : Int) (lm : Bool) : (rtpStoreIr3 cfg zs lm f).llm =
    f.llm := rfl
@[simp] theorem rtpStoreIr3_bk (cfg : Config) (zs : Int) (lm : Bool) : (rtpStoreIr3 cfg zs lm f).bk =
    f.bk := rfl
@[simp] theorem rtpStoreIr3_lcm (cfg : Config) (zs : Int) (lm : Bool) : (rtpStoreIr3 cfg zs lm f).lcm =
    f.lcm := rfl
@[simp] theorem rtpStoreIr3_fc (cfg : Config) (zs : Int) (lm : Bool) : (rtpStoreIr3 cfg zs lm f).fc =
    f.fc := rfl
@[simp] theorem rtpStoreIr3_ofx (cfg : Config) (zs : Int) (lm : Bool) : (rtpStoreIr3 cfg zs lm f).ofx =
    f.ofx := rfl
@[simp] theorem rtpStoreIr3_ofy (cfg : Config) (zs : Int) (lm : Bool) : (rtpStoreIr3 cfg zs lm f).ofy =
    f.ofy := rfl
@[simp] theorem rtpStoreIr3_h (cfg : Config) (zs : Int) (lm : Bool) : (rtpStoreIr3 cfg zs lm f).h =
    f.h := rfl
@[simp] theorem rtpStoreIr3_dqa (cfg : Config) (zs : Int) (lm : Bool) : (rtpStoreIr3 cfg zs lm f).dqa =
    f.dqa := rfl
@[simp] theorem rtpStoreIr3_dqb (cfg : Config) (zs : Int) (lm : Bool) : (rtpStoreIr3 cfg zs lm f).dqb =
    f.dqb := rfl
@[simp] theorem rtpStoreIr3_zsf3 (cfg : Config) (zs : Int) (lm : Bool) : (rtpStoreIr3 cfg zs lm f).zsf3 =
    f.zsf3 := rfl
@[simp] theorem rtpStoreIr3_zsf4 (cfg : Config) (zs : Int) (lm : Bool) : (rtpStoreIr3 cfg zs lm f).zsf4 =
    f.zsf4 := rfl
@[simp] theorem rtpStoreIr3_flag (cfg : Config) (zs : Int) (lm : Bool) : (rtpStoreIr3 cfg zs lm f).flag =
    if cfg.rtpIr3Quirk then raiseIf (zs < -0x8000 ∨ zs > 0x7FFF) .ir3Sat f.flag
      else irFlags .l3 f.mac.l3.toInt lm f.flag := rfl

/-! rtpCheckScreen -/

@[simp] theorem rtpCheckScreen_v0 (x y : Int) : (rtpCheckScreen x y f).v0 = f.v0 := rfl
@[simp] theorem rtpCheckScreen_v1 (x y : Int) : (rtpCheckScreen x y f).v1 = f.v1 := rfl
@[simp] theorem rtpCheckScreen_v2 (x y : Int) : (rtpCheckScreen x y f).v2 = f.v2 := rfl
@[simp] theorem rtpCheckScreen_rgbc (x y : Int) : (rtpCheckScreen x y f).rgbc = f.rgbc := rfl
@[simp] theorem rtpCheckScreen_otz (x y : Int) : (rtpCheckScreen x y f).otz = f.otz := rfl
@[simp] theorem rtpCheckScreen_ir0 (x y : Int) : (rtpCheckScreen x y f).ir0 = f.ir0 := rfl
@[simp] theorem rtpCheckScreen_ir (x y : Int) : (rtpCheckScreen x y f).ir = f.ir := rfl
@[simp] theorem rtpCheckScreen_sxy0 (x y : Int) : (rtpCheckScreen x y f).sxy0 = f.sxy0 := rfl
@[simp] theorem rtpCheckScreen_sxy1 (x y : Int) : (rtpCheckScreen x y f).sxy1 = f.sxy1 := rfl
@[simp] theorem rtpCheckScreen_sxy2 (x y : Int) : (rtpCheckScreen x y f).sxy2 = f.sxy2 := rfl
@[simp] theorem rtpCheckScreen_sz0 (x y : Int) : (rtpCheckScreen x y f).sz0 = f.sz0 := rfl
@[simp] theorem rtpCheckScreen_sz1 (x y : Int) : (rtpCheckScreen x y f).sz1 = f.sz1 := rfl
@[simp] theorem rtpCheckScreen_sz2 (x y : Int) : (rtpCheckScreen x y f).sz2 = f.sz2 := rfl
@[simp] theorem rtpCheckScreen_sz3 (x y : Int) : (rtpCheckScreen x y f).sz3 = f.sz3 := rfl
@[simp] theorem rtpCheckScreen_rgb0 (x y : Int) : (rtpCheckScreen x y f).rgb0 = f.rgb0 := rfl
@[simp] theorem rtpCheckScreen_rgb1 (x y : Int) : (rtpCheckScreen x y f).rgb1 = f.rgb1 := rfl
@[simp] theorem rtpCheckScreen_rgb2 (x y : Int) : (rtpCheckScreen x y f).rgb2 = f.rgb2 := rfl
@[simp] theorem rtpCheckScreen_res1 (x y : Int) : (rtpCheckScreen x y f).res1 = f.res1 := rfl
@[simp] theorem rtpCheckScreen_mac0 (x y : Int) : (rtpCheckScreen x y f).mac0 = f.mac0 := rfl
@[simp] theorem rtpCheckScreen_mac (x y : Int) : (rtpCheckScreen x y f).mac = f.mac := rfl
@[simp] theorem rtpCheckScreen_lzcs (x y : Int) : (rtpCheckScreen x y f).lzcs = f.lzcs := rfl
@[simp] theorem rtpCheckScreen_lzcr (x y : Int) : (rtpCheckScreen x y f).lzcr = f.lzcr := rfl
@[simp] theorem rtpCheckScreen_rt (x y : Int) : (rtpCheckScreen x y f).rt = f.rt := rfl
@[simp] theorem rtpCheckScreen_tr (x y : Int) : (rtpCheckScreen x y f).tr = f.tr := rfl
@[simp] theorem rtpCheckScreen_llm (x y : Int) : (rtpCheckScreen x y f).llm = f.llm := rfl
@[simp] theorem rtpCheckScreen_bk (x y : Int) : (rtpCheckScreen x y f).bk = f.bk := rfl
@[simp] theorem rtpCheckScreen_lcm (x y : Int) : (rtpCheckScreen x y f).lcm = f.lcm := rfl
@[simp] theorem rtpCheckScreen_fc (x y : Int) : (rtpCheckScreen x y f).fc = f.fc := rfl
@[simp] theorem rtpCheckScreen_ofx (x y : Int) : (rtpCheckScreen x y f).ofx = f.ofx := rfl
@[simp] theorem rtpCheckScreen_ofy (x y : Int) : (rtpCheckScreen x y f).ofy = f.ofy := rfl
@[simp] theorem rtpCheckScreen_h (x y : Int) : (rtpCheckScreen x y f).h = f.h := rfl
@[simp] theorem rtpCheckScreen_dqa (x y : Int) : (rtpCheckScreen x y f).dqa = f.dqa := rfl
@[simp] theorem rtpCheckScreen_dqb (x y : Int) : (rtpCheckScreen x y f).dqb = f.dqb := rfl
@[simp] theorem rtpCheckScreen_zsf3 (x y : Int) : (rtpCheckScreen x y f).zsf3 = f.zsf3 := rfl
@[simp] theorem rtpCheckScreen_zsf4 (x y : Int) : (rtpCheckScreen x y f).zsf4 = f.zsf4 := rfl
@[simp] theorem rtpCheckScreen_flag (x y : Int) : (rtpCheckScreen x y f).flag =
    mac0Flags y (mac0Flags x f.flag) := rfl

/-! rtpDivideFlag -/

@[simp] theorem rtpDivideFlag_v0 : (rtpDivideFlag f).v0 = f.v0 := rfl
@[simp] theorem rtpDivideFlag_v1 : (rtpDivideFlag f).v1 = f.v1 := rfl
@[simp] theorem rtpDivideFlag_v2 : (rtpDivideFlag f).v2 = f.v2 := rfl
@[simp] theorem rtpDivideFlag_rgbc : (rtpDivideFlag f).rgbc = f.rgbc := rfl
@[simp] theorem rtpDivideFlag_otz : (rtpDivideFlag f).otz = f.otz := rfl
@[simp] theorem rtpDivideFlag_ir0 : (rtpDivideFlag f).ir0 = f.ir0 := rfl
@[simp] theorem rtpDivideFlag_ir : (rtpDivideFlag f).ir = f.ir := rfl
@[simp] theorem rtpDivideFlag_sxy0 : (rtpDivideFlag f).sxy0 = f.sxy0 := rfl
@[simp] theorem rtpDivideFlag_sxy1 : (rtpDivideFlag f).sxy1 = f.sxy1 := rfl
@[simp] theorem rtpDivideFlag_sxy2 : (rtpDivideFlag f).sxy2 = f.sxy2 := rfl
@[simp] theorem rtpDivideFlag_sz0 : (rtpDivideFlag f).sz0 = f.sz0 := rfl
@[simp] theorem rtpDivideFlag_sz1 : (rtpDivideFlag f).sz1 = f.sz1 := rfl
@[simp] theorem rtpDivideFlag_sz2 : (rtpDivideFlag f).sz2 = f.sz2 := rfl
@[simp] theorem rtpDivideFlag_sz3 : (rtpDivideFlag f).sz3 = f.sz3 := rfl
@[simp] theorem rtpDivideFlag_rgb0 : (rtpDivideFlag f).rgb0 = f.rgb0 := rfl
@[simp] theorem rtpDivideFlag_rgb1 : (rtpDivideFlag f).rgb1 = f.rgb1 := rfl
@[simp] theorem rtpDivideFlag_rgb2 : (rtpDivideFlag f).rgb2 = f.rgb2 := rfl
@[simp] theorem rtpDivideFlag_res1 : (rtpDivideFlag f).res1 = f.res1 := rfl
@[simp] theorem rtpDivideFlag_mac0 : (rtpDivideFlag f).mac0 = f.mac0 := rfl
@[simp] theorem rtpDivideFlag_mac : (rtpDivideFlag f).mac = f.mac := rfl
@[simp] theorem rtpDivideFlag_lzcs : (rtpDivideFlag f).lzcs = f.lzcs := rfl
@[simp] theorem rtpDivideFlag_lzcr : (rtpDivideFlag f).lzcr = f.lzcr := rfl
@[simp] theorem rtpDivideFlag_rt : (rtpDivideFlag f).rt = f.rt := rfl
@[simp] theorem rtpDivideFlag_tr : (rtpDivideFlag f).tr = f.tr := rfl
@[simp] theorem rtpDivideFlag_llm : (rtpDivideFlag f).llm = f.llm := rfl
@[simp] theorem rtpDivideFlag_bk : (rtpDivideFlag f).bk = f.bk := rfl
@[simp] theorem rtpDivideFlag_lcm : (rtpDivideFlag f).lcm = f.lcm := rfl
@[simp] theorem rtpDivideFlag_fc : (rtpDivideFlag f).fc = f.fc := rfl
@[simp] theorem rtpDivideFlag_ofx : (rtpDivideFlag f).ofx = f.ofx := rfl
@[simp] theorem rtpDivideFlag_ofy : (rtpDivideFlag f).ofy = f.ofy := rfl
@[simp] theorem rtpDivideFlag_h : (rtpDivideFlag f).h = f.h := rfl
@[simp] theorem rtpDivideFlag_dqa : (rtpDivideFlag f).dqa = f.dqa := rfl
@[simp] theorem rtpDivideFlag_dqb : (rtpDivideFlag f).dqb = f.dqb := rfl
@[simp] theorem rtpDivideFlag_zsf3 : (rtpDivideFlag f).zsf3 = f.zsf3 := rfl
@[simp] theorem rtpDivideFlag_zsf4 : (rtpDivideFlag f).zsf4 = f.zsf4 := rfl
@[simp] theorem rtpDivideFlag_flag : (rtpDivideFlag f).flag =
    divideFlag f.h.toNat f.sz3.toNat f.flag := rfl

/-! Taking a transaction -/

@[simp] theorem take_file (s : State) (rest : List Transaction) : (s.take rest).file = s.file := rfl
@[simp] theorem take_pending (s : State) (rest : List Transaction) :
    (s.take rest).pending = rest := rfl
@[simp] theorem take_reply (s : State) (rest : List Transaction) : (s.take rest).reply = none := rfl

end Machine

end Sys2Proof
end

