-- ==== Sys2Proof/Laws/Engine.lean ====
section
/-!
SUPPORT. What the lane operations do, once each: the accumulators, IR, the conditions recorded and
the frame, so that no later proof unfolds a lane.
-/

namespace Sys2Proof.Machine

/-- The conditions of a range check of lane `l` (R113). -/
def wideRaises (v : Int) (l : Lane) (b : FlagBit) : Prop :=
  (b = macPos l ∧ v > 2 ^ 43 - 1) ∨ (b = macNeg l ∧ v < -2 ^ 43)

/-- The condition of a store into IR of lane `l` (R116). -/
def irRaises (v : Int) (lm : Bool) (l : Lane) (b : FlagBit) : Prop :=
  b = irSat l ∧ (v < irLow lm ∨ v > 0x7FFF)

/-- `g` is `f` after an operation over three lanes that leaves `mac` and `ir` in them and records
`cond` beside the conditions `f` holds; nothing else differs. -/
structure LaneEffect (mac : Lane → Word) (ir : Lane → Half) (cond : Lane → FlagBit → Prop)
    (f g : RegFile) : Prop where
  mac : ∀ l, g.mac.get l = mac l
  ir : ∀ l, g.ir.get l = ir l
  flag : ∀ b, g.flagSet b = true ↔ f.flagSet b = true ∨ ∃ l, cond l b
  frame : g = { f with mac := g.mac, ir := g.ir, flag := g.flag }

/-- What a store of a lane leaves (R118). -/
theorem setMacIr_eq (cfg : Config) (l : Lane) (v : Int) (sh : Nat) (lm : Bool) (f : RegFile) :
    setMacIr cfg l v sh lm f =
      { f with
        mac := f.mac.set l (macWord cfg v sh)
        ir := f.ir.set l (irHalf (macWord cfg v sh).toInt lm)
        flag := irFlags l (macWord cfg v sh).toInt lm (wideFlags l v f.flag) } := by
  simp only [setMacIr, setIrFromMac, setIr, setMac, Triple.get_set_same]

/-- Three lanes that each read nothing of another lane's results (R11, R277). -/
theorem eachLane_effect {g : Lane → RegFile → RegFile} {f : RegFile} {m : Lane → Word}
    {i : Lane → Half} {cond : Lane → FlagBit → Prop} (op : Lane → Flags → Flags)
    (hlane : ∀ l mac ir w, mac.get l = f.mac.get l → ir.get l = f.ir.get l →
      g l { f with mac := mac, ir := ir, flag := w } =
        { f with mac := mac.set l (m l), ir := ir.set l (i l), flag := op l w })
    (hop : ∀ l w b, flagHas (op l w) b = true ↔ flagHas w b = true ∨ cond l b) :
    LaneEffect m i cond f (eachLane g f) := by
  have e1 := hlane .l1 f.mac f.ir f.flag rfl rfl
  have e2 := hlane .l2 (f.mac.set .l1 (m .l1)) (f.ir.set .l1 (i .l1)) (op .l1 f.flag) rfl rfl
  have e3 := hlane .l3 ((f.mac.set .l1 (m .l1)).set .l2 (m .l2))
    ((f.ir.set .l1 (i .l1)).set .l2 (i .l2)) (op .l2 (op .l1 f.flag)) rfl rfl
  have heq : eachLane g f = { f with
      mac := ⟨m .l1, m .l2, m .l3⟩
      ir := ⟨i .l1, i .l2, i .l3⟩
      flag := op .l3 (op .l2 (op .l1 f.flag)) } := by
    rw [eachLane, show g .l1 f = _ from e1, e2, e3]
    simp only [Triple.set_l1, Triple.set_l2, Triple.set_l3]
  rw [heq]
  exact ⟨fun l => by cases l <;> rfl, fun l => by cases l <;> rfl,
    fun b => flagHas_lanes hop f.flag b, rfl⟩

/-- Three stores of values that are the lanes' own (R118): SQR, OP, GPF, GPL, the colour multiply
and each pass of `interpolate`. -/
theorem stores_effect {g : Lane → RegFile → RegFile} {f : RegFile} (cfg : Config)
    (v : Lane → Int) (sh : Nat) (lm : Bool)
    (hlane : ∀ l mac ir w, mac.get l = f.mac.get l → ir.get l = f.ir.get l →
      g l { f with mac := mac, ir := ir, flag := w } =
        setMacIr cfg l (v l) sh lm { f with mac := mac, ir := ir, flag := w }) :
    LaneEffect (fun l => macWord cfg (v l) sh) (fun l => irHalf (macWord cfg (v l) sh).toInt lm)
      (fun l b => wideRaises (v l) l b ∨ irRaises (macWord cfg (v l) sh).toInt lm l b)
      f (eachLane g f) :=
  eachLane_effect (fun l w => irFlags l (macWord cfg (v l) sh).toInt lm (wideFlags l (v l) w))
    (fun l mac ir w hm hi => by rw [hlane l mac ir w hm hi, setMacIr_eq])
    fun l w b => by
      rw [flagHas_irFlags, flagHas_wideFlags]
      simp only [wideRaises, irRaises, or_assoc]

/-- `transform` (R126). -/
theorem transform_effect (cfg : Config) (m : Mat3) (t : Option (Triple Word)) (vec : Triple Half)
    (sh : Nat) (lm : Bool) (f : RegFile) (a : Lane → Triple Int)
    (ha : ∀ l, laneSums cfg (promote t l) (m.get l) vec = a l) :
    LaneEffect (fun l => macWord cfg (a l).l3 sh)
      (fun l => irHalf (macWord cfg (a l).l3 sh).toInt lm)
      (fun l b => wideRaises (a l).l1 l b ∨ wideRaises (a l).l2 l b ∨ wideRaises (a l).l3 l b ∨
        irRaises (macWord cfg (a l).l3 sh).toInt lm l b)
      f (transform cfg m t vec sh lm f) :=
  eachLane_effect
    (fun l w => irFlags l (macWord cfg (a l).l3 sh).toInt lm (sumFlags l (a l) w))
    (fun l mac ir w _ _ => by
      simp only [transformLane, setIrFromMac, setIr, storeSums, Triple.get_set_same, ha])
    fun l w b => by
      rw [flagHas_irFlags, flagHas_sumFlags]
      simp only [wideRaises, irRaises]
      tauto

/-- `transform_fc` (R127). -/
theorem transformFc_effect (cfg : Config) (m : Mat3) (fc : Triple Word) (vec : Triple Half)
    (sh : Nat) (lm : Bool) (f : RegFile) (a : Lane → Int × Int)
    (ha : ∀ l, lastTwo cfg (m.get l) vec = a l) :
    LaneEffect (fun l => macWord cfg (a l).2 sh)
      (fun l => irHalf (macWord cfg (a l).2 sh).toInt lm)
      (fun l b => wideRaises (fcSum fc m vec l) l b ∨
        irRaises (sext 32 (asr (wideValue cfg (fcSum fc m vec l)) sh)) false l b ∨
        wideRaises (a l).1 l b ∨ wideRaises (a l).2 l b ∨
        irRaises (macWord cfg (a l).2 sh).toInt lm l b)
      f (transformFc cfg m fc vec sh lm f) :=
  eachLane_effect
    (fun l w => irFlags l (macWord cfg (a l).2 sh).toInt lm (wideFlags l (a l).2
      (wideFlags l (a l).1 (fcFlags cfg (fcSum fc m vec l) sh l w))))
    (fun l mac ir w _ _ => by simp only [transformFcLane, setMacIr_eq, ha])
    fun l w b => by
      simp only [fcFlags, flagHas_irFlags, flagHas_wideFlags, wideRaises, irRaises, or_assoc]

/-- One operation over three lanes after another. -/
theorem LaneEffect.trans {m₁ m₂ : Lane → Word} {i₁ i₂ : Lane → Half}
    {c₁ c₂ : Lane → FlagBit → Prop} {f g k : RegFile} (h₁ : LaneEffect m₁ i₁ c₁ f g)
    (h₂ : LaneEffect m₂ i₂ c₂ g k) : LaneEffect m₂ i₂ (fun l b => c₁ l b ∨ c₂ l b) f k where
  mac := h₂.mac
  ir := h₂.ir
  flag b := by rw [h₂.flag, h₁.flag, or_assoc, exists_or]
  frame := by
    have e := h₂.frame
    rw [h₁.frame] at e
    exact e

/-- `interpolate` (R128): `d` is the exact difference of pass one, `e` the exact sum of pass two. -/
theorem interpolate_effect (cfg : Config) (start : Triple Int) (sh : Nat) (lm : Bool) (f : RegFile)
    (d e : Lane → Int) (hd : ∀ l, shl (f.fc.get l).toInt 12 - start.get l = d l)
    (he : ∀ l, (irHalf (macWord cfg (d l) sh).toInt false).toInt * f.ir0.toInt + start.get l = e l) :
    LaneEffect (fun l => macWord cfg (e l) sh) (fun l => irHalf (macWord cfg (e l) sh).toInt lm)
      (fun l b => (wideRaises (d l) l b ∨ irRaises (macWord cfg (d l) sh).toInt false l b) ∨
        wideRaises (e l) l b ∨ irRaises (macWord cfg (e l) sh).toInt lm l b)
      f (interpolate cfg start sh lm f) := by
  unfold interpolate
  have h₁ := stores_effect (g := interpolateDiff cfg start sh) (f := f) cfg d sh false
    fun l mac ir w _ _ => by simp only [interpolateDiff, hd]
  generalize eachLane (interpolateDiff cfg start sh) f = g at h₁ ⊢
  have hir0 : g.ir0 = f.ir0 := by rw [h₁.frame]
  exact h₁.trans (stores_effect cfg e sh lm fun l mac ir w _ hi => by
    simp only [interpolateBlend, hi, h₁.ir, hir0, he])

/-- `SQR` (R203). -/
theorem sqr_effect (cfg : Config) (sh : Nat) (lm : Bool) (f : RegFile) (v : Lane → Int)
    (hv : ∀ l, (f.ir.get l).toInt * (f.ir.get l).toInt = v l) :
    LaneEffect (fun l => macWord cfg (v l) sh) (fun l => irHalf (macWord cfg (v l) sh).toInt lm)
      (fun l b => wideRaises (v l) l b ∨ irRaises (macWord cfg (v l) sh).toInt lm l b)
      f (eachLane (sqrLane cfg sh lm) f) :=
  stores_effect cfg v sh lm fun l mac ir w _ hi => by simp only [sqrLane, hi, hv]

/-- The lanes of `GPF` (R184). -/
theorem gpf_effect (cfg : Config) (sh : Nat) (lm : Bool) (f : RegFile) (v : Lane → Int)
    (hv : ∀ l, (f.ir.get l).toInt * f.ir0.toInt = v l) :
    LaneEffect (fun l => macWord cfg (v l) sh) (fun l => irHalf (macWord cfg (v l) sh).toInt lm)
      (fun l b => wideRaises (v l) l b ∨ irRaises (macWord cfg (v l) sh).toInt lm l b)
      f (eachLane (gpfLane cfg sh lm) f) :=
  stores_effect cfg v sh lm fun l mac ir w _ hi => by simp only [gpfLane, hi, hv]

/-- The lanes of `GPL` (R185). -/
theorem gpl_effect (cfg : Config) (sh : Nat) (lm : Bool) (f : RegFile) (v : Lane → Int)
    (hv : ∀ l, shl (f.mac.get l).toInt sh + (f.ir.get l).toInt * f.ir0.toInt = v l) :
    LaneEffect (fun l => macWord cfg (v l) sh) (fun l => irHalf (macWord cfg (v l) sh).toInt lm)
      (fun l b => wideRaises (v l) l b ∨ irRaises (macWord cfg (v l) sh).toInt lm l b)
      f (eachLane (gplLane cfg sh lm) f) :=
  stores_effect cfg v sh lm fun l mac ir w hm hi => by simp only [gplLane, hm, hi, hv]

/-- Three stores of values fixed beforehand: `OP` and the colour multiply (R204, R168). -/
theorem storeAll_effect (cfg : Config) (v : Triple Int) (sh : Nat) (lm : Bool) (f : RegFile) :
    LaneEffect (fun l => macWord cfg (v.get l) sh)
      (fun l => irHalf (macWord cfg (v.get l) sh).toInt lm)
      (fun l b => wideRaises (v.get l) l b ∨ irRaises (macWord cfg (v.get l) sh).toInt lm l b)
      f (eachLane (fun l => setMacIr cfg l (v.get l) sh lm) f) :=
  stores_effect cfg (fun l => v.get l) sh lm fun _ _ _ _ _ _ => rfl

/-! The colour push -/

/-- The conditions of a colour push (R120). -/
def colourRaises (mac : Triple Word) (b : FlagBit) : Prop :=
  (b = .colRSat ∧ (macColour mac.l1 < 0 ∨ macColour mac.l1 > 255)) ∨
    (b = .colGSat ∧ (macColour mac.l2 < 0 ∨ macColour mac.l2 > 255)) ∨
    (b = .colBSat ∧ (macColour mac.l3 < 0 ∨ macColour mac.l3 > 255))

theorem pushRgb_flagSet (f : RegFile) (b : FlagBit) :
    (pushRgb f).flagSet b = true ↔ f.flagSet b = true ∨ colourRaises f.mac b := by
  simp only [RegFile.flagSet, pushRgb, flagHas_satRgbFlag, colourRaises, or_assoc]

/-! A store in range records nothing -/

theorem not_wideRaises {v : Int} (hlo : -2 ^ 43 ≤ v) (hhi : v ≤ 2 ^ 43 - 1) (l : Lane)
    (b : FlagBit) : ¬ wideRaises v l b := by
  rintro (⟨_, h⟩ | ⟨_, h⟩) <;> omega

end Sys2Proof.Machine
end

