-- ==== Sys2Proof/Laws/Exec.lean ====
section
/-!
SUPPORT. Every instruction as one equation: `exec` answers a next state whose register file is the
handler applied to the file with FLAG cleared (40_primitives.md R112), or, for a reserved function
code, the same state (45_mvmva_reserved.md R215). And every transaction as one equation of `step`.
-/

namespace Sys2Proof.Machine

/-- The register file a handler starts from (R112; FLAG_CLEARED_AT_EXEC, log entry 7). -/
def cleared (f : RegFile) : RegFile := { f with flag := 0 }

theorem prologue_config (f : RegFile) : prologue config f = cleared f := rfl

theorem cleared_flagSet (f : RegFile) (b : FlagBit) : (cleared f).flagSet b = false := by
  simp [cleared, RegFile.flagSet, flagHas]

@[simp] theorem cleared_v0 (f : RegFile) : (cleared f).v0 = f.v0 := rfl
@[simp] theorem cleared_v1 (f : RegFile) : (cleared f).v1 = f.v1 := rfl
@[simp] theorem cleared_v2 (f : RegFile) : (cleared f).v2 = f.v2 := rfl
@[simp] theorem cleared_rgbc (f : RegFile) : (cleared f).rgbc = f.rgbc := rfl
@[simp] theorem cleared_otz (f : RegFile) : (cleared f).otz = f.otz := rfl
@[simp] theorem cleared_ir0 (f : RegFile) : (cleared f).ir0 = f.ir0 := rfl
@[simp] theorem cleared_ir (f : RegFile) : (cleared f).ir = f.ir := rfl
@[simp] theorem cleared_sxy0 (f : RegFile) : (cleared f).sxy0 = f.sxy0 := rfl
@[simp] theorem cleared_sxy1 (f : RegFile) : (cleared f).sxy1 = f.sxy1 := rfl
@[simp] theorem cleared_sxy2 (f : RegFile) : (cleared f).sxy2 = f.sxy2 := rfl
@[simp] theorem cleared_sz0 (f : RegFile) : (cleared f).sz0 = f.sz0 := rfl
@[simp] theorem cleared_sz1 (f : RegFile) : (cleared f).sz1 = f.sz1 := rfl
@[simp] theorem cleared_sz2 (f : RegFile) : (cleared f).sz2 = f.sz2 := rfl
@[simp] theorem cleared_sz3 (f : RegFile) : (cleared f).sz3 = f.sz3 := rfl
@[simp] theorem cleared_rgb0 (f : RegFile) : (cleared f).rgb0 = f.rgb0 := rfl
@[simp] theorem cleared_rgb1 (f : RegFile) : (cleared f).rgb1 = f.rgb1 := rfl
@[simp] theorem cleared_rgb2 (f : RegFile) : (cleared f).rgb2 = f.rgb2 := rfl
@[simp] theorem cleared_res1 (f : RegFile) : (cleared f).res1 = f.res1 := rfl
@[simp] theorem cleared_mac0 (f : RegFile) : (cleared f).mac0 = f.mac0 := rfl
@[simp] theorem cleared_mac (f : RegFile) : (cleared f).mac = f.mac := rfl
@[simp] theorem cleared_lzcs (f : RegFile) : (cleared f).lzcs = f.lzcs := rfl
@[simp] theorem cleared_lzcr (f : RegFile) : (cleared f).lzcr = f.lzcr := rfl
@[simp] theorem cleared_rt (f : RegFile) : (cleared f).rt = f.rt := rfl
@[simp] theorem cleared_tr (f : RegFile) : (cleared f).tr = f.tr := rfl
@[simp] theorem cleared_llm (f : RegFile) : (cleared f).llm = f.llm := rfl
@[simp] theorem cleared_bk (f : RegFile) : (cleared f).bk = f.bk := rfl
@[simp] theorem cleared_lcm (f : RegFile) : (cleared f).lcm = f.lcm := rfl
@[simp] theorem cleared_fc (f : RegFile) : (cleared f).fc = f.fc := rfl
@[simp] theorem cleared_ofx (f : RegFile) : (cleared f).ofx = f.ofx := rfl
@[simp] theorem cleared_ofy (f : RegFile) : (cleared f).ofy = f.ofy := rfl
@[simp] theorem cleared_h (f : RegFile) : (cleared f).h = f.h := rfl
@[simp] theorem cleared_dqa (f : RegFile) : (cleared f).dqa = f.dqa := rfl
@[simp] theorem cleared_dqb (f : RegFile) : (cleared f).dqb = f.dqb := rfl
@[simp] theorem cleared_zsf3 (f : RegFile) : (cleared f).zsf3 = f.zsf3 := rfl
@[simp] theorem cleared_zsf4 (f : RegFile) : (cleared f).zsf4 = f.zsf4 := rfl
@[simp] theorem cleared_flag (f : RegFile) : (cleared f).flag = 0 := rfl

variable (sf lm : Bool) (s : State)

theorem exec_rtps : exec (.rtps sf lm) s =
    .next { s with file := rtp config s.file.v0 (shiftOf sf) lm true (cleared s.file) } := rfl

theorem exec_rtpt : exec (.rtpt sf lm) s =
    .next { s with
      file :=
        rtp config s.file.v2 (shiftOf sf) lm true
          (rtp config s.file.v1 (shiftOf sf) lm false
            (rtp config s.file.v0 (shiftOf sf) lm false (cleared s.file))) } := rfl

theorem exec_ncs : exec (.ncs sf lm) s =
    .next { s with
      file := normalStage config s.file.v0 .plain (shiftOf sf) lm (cleared s.file) } := rfl

theorem exec_nct : exec (.nct sf lm) s =
    .next { s with file := normalStage3 config .plain (shiftOf sf) lm (cleared s.file) } := rfl

theorem exec_nccs : exec (.nccs sf lm) s =
    .next { s with
      file := normalStage config s.file.v0 .colour (shiftOf sf) lm (cleared s.file) } := rfl

theorem exec_ncct : exec (.ncct sf lm) s =
    .next { s with file := normalStage3 config .colour (shiftOf sf) lm (cleared s.file) } := rfl

theorem exec_ncds : exec (.ncds sf lm) s =
    .next { s with
      file := normalStage config s.file.v0 .depth (shiftOf sf) lm (cleared s.file) } := rfl

theorem exec_ncdt : exec (.ncdt sf lm) s =
    .next { s with file := normalStage3 config .depth (shiftOf sf) lm (cleared s.file) } := rfl

theorem exec_cc : exec (.cc sf lm) s =
    .next { s with file := colourStage config .colour (shiftOf sf) lm (cleared s.file) } := rfl

theorem exec_cdp : exec (.cdp sf lm) s =
    .next { s with file := colourStage config .depth (shiftOf sf) lm (cleared s.file) } := rfl

theorem exec_dpcs : exec (.dpcs sf lm) s =
    .next { s with file := depthCue config s.file.rgbc (shiftOf sf) lm (cleared s.file) } := rfl

theorem exec_dpct : exec (.dpct sf lm) s =
    .next { s with
      file :=
        depthCueOldest config (shiftOf sf) lm
          (depthCueOldest config (shiftOf sf) lm
            (depthCueOldest config (shiftOf sf) lm (cleared s.file))) } := rfl

theorem exec_dcpl : exec (.dcpl sf lm) s =
    .next { s with
      file :=
        pushRgb (interpolate config (colorMul s.file) (shiftOf sf) lm (cleared s.file)) } := rfl

theorem exec_intpl : exec (.intpl sf lm) s =
    .next { s with
      file :=
        pushRgb (interpolate config (irScaled s.file) (shiftOf sf) lm (cleared s.file)) } := rfl

theorem exec_gpf : exec (.gpf sf lm) s =
    .next { s with
      file := pushRgb (eachLane (gpfLane config (shiftOf sf) lm) (cleared s.file)) } := rfl

theorem exec_gpl : exec (.gpl sf lm) s =
    .next { s with
      file := pushRgb (eachLane (gplLane config (shiftOf sf) lm) (cleared s.file)) } := rfl

theorem exec_nclip : exec .nclip s =
    .next { s with
      file := setMac0 (nclipSum s.file.sxy0 s.file.sxy1 s.file.sxy2) (cleared s.file) } := rfl

theorem exec_avsz3 : exec .avsz3 s =
    .next { s with file := storeAverage (avsz3Product s.file) (cleared s.file) } := rfl

theorem exec_avsz4 : exec .avsz4 s =
    .next { s with file := storeAverage (avsz4Product s.file) (cleared s.file) } := rfl

theorem exec_sqr : exec (.sqr sf lm) s =
    .next { s with file := eachLane (sqrLane config (shiftOf sf) lm) (cleared s.file) } := rfl

theorem exec_op : exec (.op sf lm) s =
    .next { s with
      file :=
        eachLane (fun l => setMacIr config l
          ((crossProduct (rtDiagonal s.file) s.file.ir).get l) (shiftOf sf) lm)
          (cleared s.file) } := rfl

theorem exec_mvmva (mx : MatrixSel) (v : VectorSel) (cv : TransSel) :
    exec (.mvmva sf mx v cv lm) s =
      .next { s with file := mvmva config (shiftOf sf) mx v cv lm (cleared s.file) } := rfl

/-- Every translation but the far colour is `transform` (R210). -/
theorem mvmva_of_ne {cv : TransSel} (hcv : cv ≠ .fc) (cfg : Config) (sh : Nat) (mx : MatrixSel)
    (v : VectorSel) (f : RegFile) :
    mvmva cfg sh mx v cv lm f =
      transform cfg (matrixOperand f mx) (translationOperand f cv) (vectorOperand f v) sh lm f := by
  cases cv <;> first | rfl | exact absurd rfl hcv

/-- The far colour is `transform_fc` (R213). -/
theorem mvmva_fc (cfg : Config) (sh : Nat) (mx : MatrixSel) (v : VectorSel) (f : RegFile) :
    mvmva cfg sh mx v .fc lm f =
      transformFc cfg (matrixOperand f mx) f.fc (vectorOperand f v) sh lm f := rfl

/-- Every instruction answers a next state that differs in the register file alone. -/
theorem exec_cases (i : Instr) (s : State) : ∃ f : RegFile, exec i s = .next { s with file := f } := by
  cases i
  case rtps => exact ⟨_, exec_rtps ..⟩
  case rtpt => exact ⟨_, exec_rtpt ..⟩
  case ncs => exact ⟨_, exec_ncs ..⟩
  case nct => exact ⟨_, exec_nct ..⟩
  case nccs => exact ⟨_, exec_nccs ..⟩
  case ncct => exact ⟨_, exec_ncct ..⟩
  case ncds => exact ⟨_, exec_ncds ..⟩
  case ncdt => exact ⟨_, exec_ncdt ..⟩
  case cc => exact ⟨_, exec_cc ..⟩
  case cdp => exact ⟨_, exec_cdp ..⟩
  case dpcs => exact ⟨_, exec_dpcs ..⟩
  case dpct => exact ⟨_, exec_dpct ..⟩
  case dcpl => exact ⟨_, exec_dcpl ..⟩
  case intpl => exact ⟨_, exec_intpl ..⟩
  case gpf => exact ⟨_, exec_gpf ..⟩
  case gpl => exact ⟨_, exec_gpl ..⟩
  case sqr => exact ⟨_, exec_sqr ..⟩
  case op => exact ⟨_, exec_op ..⟩
  case nclip => exact ⟨_, exec_nclip ..⟩
  case avsz3 => exact ⟨_, exec_avsz3 ..⟩
  case avsz4 => exact ⟨_, exec_avsz4 ..⟩
  case mvmva => exact ⟨_, exec_mvmva ..⟩
  all_goals exact ⟨s.file, rfl⟩

/-! Steps -/

variable (rest : List Transaction)

theorem step_rd (i : Fin 64) : step { s with pending := .rd i :: rest } =
    .next { s with
      pending := rest
      reply := some (.word (readReg config (Reg.ofIndex i) s.file)) } := rfl

theorem step_wr (i : Fin 64) (v : Word) : step { s with pending := .wr i v :: rest } =
    .next { s with
      file := writeReg (Reg.ofIndex i) v s.file, pending := rest, reply := none } := rfl

theorem step_exec (w : Word) : step { s with pending := .exec w :: rest } =
    exec (decodeWord w) { s with pending := rest, reply := none } := rfl

theorem step_reset : step { s with pending := .reset :: rest } =
    .next { file := .zero, pending := rest, reply := none } := rfl

theorem step_dump : step { s with pending := .dump :: rest } =
    .next { s with pending := rest, reply := some (.words (dumpFile config s.file)) } := rfl

theorem step_restore (d : DumpWords) : step { s with pending := .restore d :: rest } =
    .next { file := restoreFile d s.file, pending := rest, reply := none } := rfl

end Sys2Proof.Machine
end

