-- ==== Sys2Proof/Laws/FlagSum.lean ====
section
/-!
SUPPORT. No handler reads FLAG, and each only adds conditions to it (40_primitives.md R110, R131 (f);
60_exceptions.md R253): started with more conditions recorded, it does the same and keeps them. So
the conditions of a composed instruction are the union of those of its parts.
-/

namespace Sys2Proof.Machine

/-- Started with the conditions `w` recorded as well, `op` does the same and keeps them. -/
def AddsFlags (op : RegFile → RegFile) : Prop :=
  ∀ (f : RegFile) (w : Flags),
    op { f with flag := w ||| f.flag } = { op f with flag := w ||| (op f).flag }

theorem AddsFlags.comp {op₂ op₁ : RegFile → RegFile} (h₂ : AddsFlags op₂) (h₁ : AddsFlags op₁) :
    AddsFlags fun f => op₂ (op₁ f) := fun f w => by
  dsimp only
  rw [h₁ f w, h₂ (op₁ f) w]

/-- An operation whose operands are read from fields other than FLAG. -/
theorem AddsFlags.reads {α : Type} {op : α → RegFile → RegFile} {operand : RegFile → α}
    (hop : ∀ a, AddsFlags (op a))
    (hread : ∀ f w, operand { f with flag := w } = operand f) :
    AddsFlags fun f => op (operand f) f := fun f w => by
  dsimp only
  rw [hread, hop (operand f) f w]

/-- What remains after a start with the conditions `w` alone: the part of a composed instruction
that runs after others. -/
theorem AddsFlags.from_cleared {op : RegFile → RegFile} (h : AddsFlags op) (f : RegFile) :
    op f = { op (cleared f) with flag := f.flag ||| (op (cleared f)).flag } := by
  have hf : ({ f with flag := f.flag ||| 0 } : RegFile) = f :=
    congrArg (fun u : Flags => ({ f with flag := u } : RegFile)) BitVec.or_zero
  exact (congrArg op hf).symm.trans (h (cleared f) f.flag)

theorem AddsFlags.eachLane {op : Lane → RegFile → RegFile} (h : ∀ l, AddsFlags (op l)) :
    AddsFlags (eachLane op) :=
  (h .l3).comp ((h .l2).comp (h .l1))

theorem addsFlags_setMacIr (cfg : Config) (l : Lane) (v : Int) (sh : Nat) (lm : Bool) :
    AddsFlags (setMacIr cfg l v sh lm) := fun f w => by
  simp only [setMacIr, setIrFromMac, setIr, setMac, irFlags_or, wideFlags_or]

theorem addsFlags_pushRgb : AddsFlags pushRgb := fun f w => by
  simp only [pushRgb, satRgbFlag_or]

theorem addsFlags_transform (cfg : Config) (m : Mat3) (t : Option (Triple Word))
    (vec : Triple Half) (sh : Nat) (lm : Bool) : AddsFlags (transform cfg m t vec sh lm) :=
  .eachLane fun l f w => by
    simp only [transformLane, setIrFromMac, setIr, storeSums, irFlags_or, sumFlags_or]

theorem addsFlags_transformFcLane (cfg : Config) (m : Mat3) (fc : Triple Word) (vec : Triple Half)
    (sh : Nat) (lm : Bool) (l : Lane) : AddsFlags (transformFcLane cfg m fc vec sh lm l) := fun f w => by
  have h := addsFlags_setMacIr cfg l (lastTwo cfg (m.get l) vec).2 sh lm
    { f with flag := wideFlags l (lastTwo cfg (m.get l) vec).1
                       (fcFlags cfg (fcSum fc m vec l) sh l f.flag) } w
  simp only [transformFcLane, fcFlags, irFlags_or, wideFlags_or] at h ⊢
  exact h

theorem addsFlags_transformFc (cfg : Config) (m : Mat3) (fc : Triple Word) (vec : Triple Half)
    (sh : Nat) (lm : Bool) : AddsFlags (transformFc cfg m fc vec sh lm) :=
  .eachLane (addsFlags_transformFcLane cfg m fc vec sh lm)

theorem addsFlags_interpolateDiff (cfg : Config) (start : Triple Int) (sh : Nat) (l : Lane) :
    AddsFlags (interpolateDiff cfg start sh l) := fun f w =>
  addsFlags_setMacIr cfg l (shl (f.fc.get l).toInt 12 - start.get l) sh false f w

theorem addsFlags_interpolateBlend (cfg : Config) (start : Triple Int) (sh : Nat) (lm : Bool)
    (l : Lane) : AddsFlags (interpolateBlend cfg start sh lm l) := fun f w =>
  addsFlags_setMacIr cfg l ((f.ir.get l).toInt * f.ir0.toInt + start.get l) sh lm f w

theorem addsFlags_interpolate (cfg : Config) (start : Triple Int) (sh : Nat) (lm : Bool) :
    AddsFlags (interpolate cfg start sh lm) := fun f w => by
  have h := AddsFlags.comp (op₂ := eachLane (interpolateBlend cfg start sh lm))
    (op₁ := eachLane (interpolateDiff cfg start sh))
    (.eachLane (addsFlags_interpolateBlend cfg start sh lm))
    (.eachLane (addsFlags_interpolateDiff cfg start sh)) f w
  unfold interpolate
  exact h

theorem colorMul_flag (f : RegFile) (w : Flags) : colorMul { f with flag := w } = colorMul f := rfl

theorem addsFlags_colourTint (cfg : Config) (kind : ColourKind) (sh : Nat) (lm : Bool) :
    AddsFlags (colourTint cfg kind sh lm) := fun f w => by
  cases kind <;> simp only [colourTint, colorMul_flag]
  · exact AddsFlags.eachLane (fun l => addsFlags_setMacIr cfg l ((colorMul f).get l) sh lm) f w
  · exact addsFlags_interpolate cfg (colorMul f) sh lm f w

theorem addsFlags_colourStage (cfg : Config) (kind : ColourKind) (sh : Nat) (lm : Bool) :
    AddsFlags (colourStage cfg kind sh lm) := fun f w => by
  simp only [colourStage]
  rw [addsFlags_transform cfg f.lcm (some f.bk) f.ir sh lm f w,
    addsFlags_colourTint cfg kind sh lm _ w, addsFlags_pushRgb _ w]

theorem addsFlags_normalStage (cfg : Config) (vec : Triple Half) (kind : ColourKind) (sh : Nat)
    (lm : Bool) : AddsFlags (normalStage cfg vec kind sh lm) := fun f w => by
  simp only [normalStage]
  rw [addsFlags_transform cfg f.llm none vec sh lm f w, addsFlags_colourStage cfg kind sh lm _ w]

theorem addsFlags_depthCue (cfg : Config) (c : Colour) (sh : Nat) (lm : Bool) :
    AddsFlags (depthCue cfg c sh lm) := fun f w => by
  simp only [depthCue]
  rw [addsFlags_interpolate cfg _ sh lm f w, addsFlags_pushRgb _ w]

theorem addsFlags_depthCueOldest (cfg : Config) (sh : Nat) (lm : Bool) :
    AddsFlags (depthCueOldest cfg sh lm) := fun f w => by
  simp only [depthCueOldest]
  rw [addsFlags_depthCue cfg f.rgb0 sh lm f w]

theorem operands_flag (f : RegFile) (w : Flags) (mx : MatrixSel) (v : VectorSel) (cv : TransSel) :
    matrixOperand { f with flag := w } mx = matrixOperand f mx ∧
      vectorOperand { f with flag := w } v = vectorOperand f v ∧
      translationOperand { f with flag := w } cv = translationOperand f cv := by
  cases mx <;> cases v <;> cases cv <;> exact ⟨rfl, rfl, rfl⟩

theorem addsFlags_mvmva (cfg : Config) (sh : Nat) (mx : MatrixSel) (v : VectorSel) (cv : TransSel)
    (lm : Bool) : AddsFlags (mvmva cfg sh mx v cv lm) := fun f w => by
  obtain ⟨hm, hv, ht⟩ := operands_flag f (w ||| f.flag) mx v cv
  cases cv <;> simp only [mvmva, hm, hv, ht]
  · exact addsFlags_transform cfg _ _ _ sh lm f w
  · exact addsFlags_transform cfg _ _ _ sh lm f w
  · exact addsFlags_transformFc cfg _ f.fc _ sh lm f w
  · exact addsFlags_transform cfg _ _ _ sh lm f w

theorem addsFlags_rtpRotate (cfg : Config) (vec : Triple Half) (sh : Nat) (lm : Bool) :
    AddsFlags (rtpRotate cfg vec sh lm) := fun f w => by
  have hz : rtpScreenZ cfg { f with flag := w ||| f.flag } vec = rtpScreenZ cfg f vec := rfl
  have hs : rtpSums cfg { f with flag := w ||| f.flag } vec = rtpSums cfg f vec := rfl
  have hlanes := AddsFlags.eachLane (op := fun l => storeSums cfg l (rtpSums cfg f vec l) sh)
    (fun l g u => by simp only [storeSums, sumFlags_or]) f w
  have hset : ∀ l, AddsFlags (setIrFromMac l lm) := fun l g u => by
    simp only [setIrFromMac, setIr, irFlags_or]
  have hir3 : AddsFlags (rtpStoreIr3 cfg (rtpScreenZ cfg f vec) lm) := fun g u => by
    simp only [rtpStoreIr3, raiseIf_or, irFlags_or]
    split <;> rfl
  have hpush : AddsFlags (pushSz (rtpScreenZ cfg f vec)) := fun g u => by
    simp only [pushSz, zFlags_or]
  simp only [rtpRotate, hz, hs]
  rw [hlanes, hset .l1 _ w, hset .l2 _ w, hir3 _ w, hpush _ w]

theorem addsFlags_pushSxy (x y : Int) : AddsFlags (pushSxy x y) := fun f w => by
  simp only [pushSxy, raiseIf_or]

theorem addsFlags_rtpScreen (q : Int) : AddsFlags (rtpScreen q) := fun f w => by
  have hcheck : ∀ sx sy, AddsFlags (rtpCheckScreen sx sy) := fun sx sy g u => by
    simp only [rtpCheckScreen, mac0Flags_or]
  simp only [rtpScreen]
  rw [hcheck _ _ f w, addsFlags_pushSxy _ _ _ w]

theorem addsFlags_rtpDepthCue (q : Int) : AddsFlags (rtpDepthCue q) := fun f w => by
  have hmac0 : ∀ v, AddsFlags (setMac0 v) := fun v g u => by simp only [setMac0, mac0Flags_or]
  have hir0 : ∀ v, AddsFlags (setIr0 v) := fun v g u => by simp only [setIr0, raiseIf_or]
  have hd : depthSum q { f with flag := w ||| f.flag } = depthSum q f := rfl
  simp only [rtpDepthCue, hd]
  rw [hmac0 _ f w, hir0 _ _ w]

theorem addsFlags_rtpProject (cfg : Config) (last : Bool) : AddsFlags (rtpProject cfg last) :=
    fun f w => by
  have hq : rtpQuotient cfg { f with flag := w ||| f.flag } = rtpQuotient cfg f := rfl
  have hdiv : AddsFlags rtpDivideFlag := fun g u => by simp only [rtpDivideFlag, divideFlag_or]
  simp only [rtpProject, hq]
  rw [hdiv f w, addsFlags_rtpScreen _ _ w]
  cases last
  · rfl
  · exact addsFlags_rtpDepthCue _ _ w

theorem addsFlags_rtp (cfg : Config) (vec : Triple Half) (sh : Nat) (lm last : Bool) :
    AddsFlags (rtp cfg vec sh lm last) := fun f w => by
  rw [rtp, addsFlags_rtpRotate cfg vec sh lm f w, addsFlags_rtpProject cfg last _ w, rtp]

theorem addsFlags_setMac0 (v : Int) : AddsFlags (setMac0 v) := fun f w => by
  simp only [setMac0, mac0Flags_or]

theorem addsFlags_storeAverage (r : Int) : AddsFlags (storeAverage r) := fun f w => by
  simp only [storeAverage, setOtz, setMac0, mac0Flags_or, zFlags_or]

/-- An instruction whose handler is one instruction's followed by another's: run one after the
other they leave the same file, and the conditions are the union of theirs. -/
theorem exec_sequence {i j k : Instr} {op₁ op₂ : RegFile → RegFile} (h₂ : AddsFlags op₂)
    (hi : ∀ s, exec i s = .next { s with file := op₁ (cleared s.file) })
    (hj : ∀ s, exec j s = .next { s with file := op₂ (cleared s.file) })
    (hk : ∀ s, exec k s = .next { s with file := op₂ (op₁ (cleared s.file)) }) (s : State) :
    ∃ a b, exec i s = .next a ∧ exec j a = .next b ∧
      exec k s = .next { b with
        file := { b.file with flag := a.file.flag ||| b.file.flag } } :=
  ⟨_, _, hi s, hj _, by rw [hk, h₂.from_cleared]⟩

end Sys2Proof.Machine
end

