-- ==== Sys2Proof/Laws/PerInstr.lean ====
section
/-!
SUPPORT. Statements made once per instruction. Family `EncodeCanonical`: the encoder's word holds no
bit the instruction's handler ignores (30_encoding.md R93, R100).
-/

namespace Sys2Proof.Laws

/-- A minimal word lies inside the mask of the function code. -/
theorem codeWord_canonical (fn : BitVec 6) : codeWord fn &&& ~~~ 0x0000003F = 0 := by
  revert fn; decide

/-- A minimal word lies inside the mask of `sf`, `lm` and the function code. -/
theorem sfLmWord_canonical (sf lm : Bool) (fn : BitVec 6) :
    sfLmWord sf lm fn &&& ~~~ 0x0008043F = 0 := by
  revert sf lm fn; decide

/-- A minimal word lies inside the mask of all six fields. -/
theorem fieldsWord_canonical (sf : Bool) (mx : MatrixSel) (v : VectorSel) (cv : TransSel)
    (lm : Bool) (fn : BitVec 6) : fieldsWord sf mx v cv lm fn &&& ~~~ 0x000FE43F = 0 := by
  apply BitVec.eq_of_getLsbD_eq
  intro i hi
  simp only [fieldsWord, BitVec.getLsbD_and, BitVec.getLsbD_append]
  interval_cases i <;> simp

/-- The word of `i` has no bit outside those `i` honours. -/
def EncodeCanonical.Statement (i : Instr) : Prop := encode i &&& ~~~ honouredMask i = 0

theorem EncodeCanonical.reserved00 : EncodeCanonical.Statement .reserved00 :=
  codeWord_canonical ..

theorem EncodeCanonical.rtps (sf lm : Bool) : EncodeCanonical.Statement (.rtps sf lm) :=
  sfLmWord_canonical ..

theorem EncodeCanonical.reserved02 : EncodeCanonical.Statement .reserved02 :=
  codeWord_canonical ..

theorem EncodeCanonical.reserved03 : EncodeCanonical.Statement .reserved03 :=
  codeWord_canonical ..

theorem EncodeCanonical.reserved04 : EncodeCanonical.Statement .reserved04 :=
  codeWord_canonical ..

theorem EncodeCanonical.reserved05 : EncodeCanonical.Statement .reserved05 :=
  codeWord_canonical ..

theorem EncodeCanonical.nclip : EncodeCanonical.Statement .nclip :=
  codeWord_canonical ..

theorem EncodeCanonical.reserved07 : EncodeCanonical.Statement .reserved07 :=
  codeWord_canonical ..

theorem EncodeCanonical.reserved08 : EncodeCanonical.Statement .reserved08 :=
  codeWord_canonical ..

theorem EncodeCanonical.reserved09 : EncodeCanonical.Statement .reserved09 :=
  codeWord_canonical ..

theorem EncodeCanonical.reserved0A : EncodeCanonical.Statement .reserved0A :=
  codeWord_canonical ..

theorem EncodeCanonical.reserved0B : EncodeCanonical.Statement .reserved0B :=
  codeWord_canonical ..

theorem EncodeCanonical.op (sf lm : Bool) : EncodeCanonical.Statement (.op sf lm) :=
  sfLmWord_canonical ..

theorem EncodeCanonical.reserved0D : EncodeCanonical.Statement .reserved0D :=
  codeWord_canonical ..

theorem EncodeCanonical.reserved0E : EncodeCanonical.Statement .reserved0E :=
  codeWord_canonical ..

theorem EncodeCanonical.reserved0F : EncodeCanonical.Statement .reserved0F :=
  codeWord_canonical ..

theorem EncodeCanonical.dpcs (sf lm : Bool) : EncodeCanonical.Statement (.dpcs sf lm) :=
  sfLmWord_canonical ..

theorem EncodeCanonical.intpl (sf lm : Bool) : EncodeCanonical.Statement (.intpl sf lm) :=
  sfLmWord_canonical ..

theorem EncodeCanonical.mvmva (sf : Bool) (mx : MatrixSel) (v : VectorSel) (cv : TransSel)
    (lm : Bool) : EncodeCanonical.Statement (.mvmva sf mx v cv lm) :=
  fieldsWord_canonical ..

theorem EncodeCanonical.ncds (sf lm : Bool) : EncodeCanonical.Statement (.ncds sf lm) :=
  sfLmWord_canonical ..

theorem EncodeCanonical.cdp (sf lm : Bool) : EncodeCanonical.Statement (.cdp sf lm) :=
  sfLmWord_canonical ..

theorem EncodeCanonical.reserved15 : EncodeCanonical.Statement .reserved15 :=
  codeWord_canonical ..

theorem EncodeCanonical.ncdt (sf lm : Bool) : EncodeCanonical.Statement (.ncdt sf lm) :=
  sfLmWord_canonical ..

theorem EncodeCanonical.reserved17 : EncodeCanonical.Statement .reserved17 :=
  codeWord_canonical ..

theorem EncodeCanonical.reserved18 : EncodeCanonical.Statement .reserved18 :=
  codeWord_canonical ..

theorem EncodeCanonical.reserved19 : EncodeCanonical.Statement .reserved19 :=
  codeWord_canonical ..

theorem EncodeCanonical.reserved1A : EncodeCanonical.Statement .reserved1A :=
  codeWord_canonical ..

theorem EncodeCanonical.nccs (sf lm : Bool) : EncodeCanonical.Statement (.nccs sf lm) :=
  sfLmWord_canonical ..

theorem EncodeCanonical.cc (sf lm : Bool) : EncodeCanonical.Statement (.cc sf lm) :=
  sfLmWord_canonical ..

theorem EncodeCanonical.reserved1D : EncodeCanonical.Statement .reserved1D :=
  codeWord_canonical ..

theorem EncodeCanonical.ncs (sf lm : Bool) : EncodeCanonical.Statement (.ncs sf lm) :=
  sfLmWord_canonical ..

theorem EncodeCanonical.reserved1F : EncodeCanonical.Statement .reserved1F :=
  codeWord_canonical ..

theorem EncodeCanonical.nct (sf lm : Bool) : EncodeCanonical.Statement (.nct sf lm) :=
  sfLmWord_canonical ..

theorem EncodeCanonical.reserved21 : EncodeCanonical.Statement .reserved21 :=
  codeWord_canonical ..

theorem EncodeCanonical.reserved22 : EncodeCanonical.Statement .reserved22 :=
  codeWord_canonical ..

theorem EncodeCanonical.reserved23 : EncodeCanonical.Statement .reserved23 :=
  codeWord_canonical ..

theorem EncodeCanonical.reserved24 : EncodeCanonical.Statement .reserved24 :=
  codeWord_canonical ..

theorem EncodeCanonical.reserved25 : EncodeCanonical.Statement .reserved25 :=
  codeWord_canonical ..

theorem EncodeCanonical.reserved26 : EncodeCanonical.Statement .reserved26 :=
  codeWord_canonical ..

theorem EncodeCanonical.reserved27 : EncodeCanonical.Statement .reserved27 :=
  codeWord_canonical ..

theorem EncodeCanonical.sqr (sf lm : Bool) : EncodeCanonical.Statement (.sqr sf lm) :=
  sfLmWord_canonical ..

theorem EncodeCanonical.dcpl (sf lm : Bool) : EncodeCanonical.Statement (.dcpl sf lm) :=
  sfLmWord_canonical ..

theorem EncodeCanonical.dpct (sf lm : Bool) : EncodeCanonical.Statement (.dpct sf lm) :=
  sfLmWord_canonical ..

theorem EncodeCanonical.reserved2B : EncodeCanonical.Statement .reserved2B :=
  codeWord_canonical ..

theorem EncodeCanonical.reserved2C : EncodeCanonical.Statement .reserved2C :=
  codeWord_canonical ..

theorem EncodeCanonical.avsz3 : EncodeCanonical.Statement .avsz3 :=
  codeWord_canonical ..

theorem EncodeCanonical.avsz4 : EncodeCanonical.Statement .avsz4 :=
  codeWord_canonical ..

theorem EncodeCanonical.reserved2F : EncodeCanonical.Statement .reserved2F :=
  codeWord_canonical ..

theorem EncodeCanonical.rtpt (sf lm : Bool) : EncodeCanonical.Statement (.rtpt sf lm) :=
  sfLmWord_canonical ..

theorem EncodeCanonical.reserved31 : EncodeCanonical.Statement .reserved31 :=
  codeWord_canonical ..

theorem EncodeCanonical.reserved32 : EncodeCanonical.Statement .reserved32 :=
  codeWord_canonical ..

theorem EncodeCanonical.reserved33 : EncodeCanonical.Statement .reserved33 :=
  codeWord_canonical ..

theorem EncodeCanonical.reserved34 : EncodeCanonical.Statement .reserved34 :=
  codeWord_canonical ..

theorem EncodeCanonical.reserved35 : EncodeCanonical.Statement .reserved35 :=
  codeWord_canonical ..

theorem EncodeCanonical.reserved36 : EncodeCanonical.Statement .reserved36 :=
  codeWord_canonical ..

theorem EncodeCanonical.reserved37 : EncodeCanonical.Statement .reserved37 :=
  codeWord_canonical ..

theorem EncodeCanonical.reserved38 : EncodeCanonical.Statement .reserved38 :=
  codeWord_canonical ..

theorem EncodeCanonical.reserved39 : EncodeCanonical.Statement .reserved39 :=
  codeWord_canonical ..

theorem EncodeCanonical.reserved3A : EncodeCanonical.Statement .reserved3A :=
  codeWord_canonical ..

theorem EncodeCanonical.reserved3B : EncodeCanonical.Statement .reserved3B :=
  codeWord_canonical ..

theorem EncodeCanonical.reserved3C : EncodeCanonical.Statement .reserved3C :=
  codeWord_canonical ..

theorem EncodeCanonical.gpf (sf lm : Bool) : EncodeCanonical.Statement (.gpf sf lm) :=
  sfLmWord_canonical ..

theorem EncodeCanonical.gpl (sf lm : Bool) : EncodeCanonical.Statement (.gpl sf lm) :=
  sfLmWord_canonical ..

theorem EncodeCanonical.ncct (sf lm : Bool) : EncodeCanonical.Statement (.ncct sf lm) :=
  sfLmWord_canonical ..

end Sys2Proof.Laws
end

