-- ==== Sys2Proof/Laws/Projection.lean ====
section
/-!
SUPPORT. What one vertex of RTPS or RTPT does (41_projection.md R152), field by field, and its frame.
-/

namespace Sys2Proof.Machine

variable (cfg : Config) (vec : Triple Half) (sh : Nat) (lm last : Bool) (f : RegFile)

/-- The condition of the two IR3 lines (R152 notes 3 and 7). -/
def ir3Raises (zs mac3 : Int) (b : FlagBit) : Prop :=
  b = .ir3Sat ∧ if cfg.rtpIr3Quirk then zs < -0x8000 ∨ zs > 0x7FFF
    else mac3 < irLow lm ∨ mac3 > 0x7FFF

theorem rtpRotate_mac (l : Lane) :
    (rtpRotate cfg vec sh lm f).mac.get l = macWord cfg (rtpSums cfg f vec l).l3 sh := by
  cases l <;>
    simp only [rtpRotate, pushSz_mac, rtpStoreIr3_mac, setIrFromMac_mac, eachLane, storeSums_mac,
      Triple.set_l1, Triple.set_l2, Triple.set_l3, Triple.get_l1, Triple.get_l2, Triple.get_l3]

theorem rtpRotate_ir (l : Lane) :
    (rtpRotate cfg vec sh lm f).ir.get l =
      irHalf (macWord cfg (rtpSums cfg f vec l).l3 sh).toInt lm := by
  cases l <;>
    simp only [rtpRotate, pushSz_ir, rtpStoreIr3_ir, setIrFromMac_ir, setIrFromMac_mac, eachLane,
      storeSums_mac, storeSums_ir, Triple.set_l1, Triple.set_l2, Triple.set_l3, Triple.get_l1,
      Triple.get_l2, Triple.get_l3]

theorem rtpRotate_sz :
    (rtpRotate cfg vec sh lm f).sz0 = f.sz1 ∧ (rtpRotate cfg vec sh lm f).sz1 = f.sz2 ∧
      (rtpRotate cfg vec sh lm f).sz2 = f.sz3 ∧
      (rtpRotate cfg vec sh lm f).sz3 = zHalf (rtpScreenZ cfg f vec) := by
  simp [rtpRotate, eachLane]

theorem rtpRotate_flagSet (b : FlagBit) :
    (rtpRotate cfg vec sh lm f).flagSet b = true ↔ f.flagSet b = true ∨
      (∃ l, wideRaises (rtpSums cfg f vec l).l1 l b ∨ wideRaises (rtpSums cfg f vec l).l2 l b ∨
        wideRaises (rtpSums cfg f vec l).l3 l b) ∨
      irRaises (macWord cfg (rtpSums cfg f vec .l1).l3 sh).toInt lm .l1 b ∨
      irRaises (macWord cfg (rtpSums cfg f vec .l2).l3 sh).toInt lm .l2 b ∨
      ir3Raises cfg lm (rtpScreenZ cfg f vec) (macWord cfg (rtpSums cfg f vec .l3).l3 sh).toInt b ∨
      (b = .szOtzSat ∧ (rtpScreenZ cfg f vec < 0 ∨ rtpScreenZ cfg f vec > 0xFFFF)) := by
  have hlanes := flagHas_lanes (op := fun l w => sumFlags l (rtpSums cfg f vec l) w)
    (cond := fun l b => wideRaises (rtpSums cfg f vec l).l1 l b ∨
      wideRaises (rtpSums cfg f vec l).l2 l b ∨ wideRaises (rtpSums cfg f vec l).l3 l b)
    (fun l w b => by
      rw [flagHas_sumFlags]
      simp only [wideRaises]
      tauto) f.flag b
  have hir3 : ∀ (zs mac3 : Int) (w : Flags),
      flagHas (if cfg.rtpIr3Quirk then raiseIf (zs < -0x8000 ∨ zs > 0x7FFF) .ir3Sat w
        else irFlags .l3 mac3 lm w) b = true ↔ flagHas w b = true ∨ ir3Raises cfg lm zs mac3 b := by
    intro zs mac3 w
    simp only [ir3Raises]
    split
    · exact flagHas_raiseIf_iff
    · exact flagHas_irFlags
  have hmac1 : (eachLane (fun l => storeSums cfg l (rtpSums cfg f vec l) sh) f).mac.l1 =
      macWord cfg (rtpSums cfg f vec .l1).l3 sh := by simp [eachLane]
  have hmac2 : (eachLane (fun l => storeSums cfg l (rtpSums cfg f vec l) sh) f).mac.l2 =
      macWord cfg (rtpSums cfg f vec .l2).l3 sh := by simp [eachLane]
  have hmac3 : (eachLane (fun l => storeSums cfg l (rtpSums cfg f vec l) sh) f).mac.l3 =
      macWord cfg (rtpSums cfg f vec .l3).l3 sh := by simp [eachLane]
  have hflag : (eachLane (fun l => storeSums cfg l (rtpSums cfg f vec l) sh) f).flag =
      sumFlags .l3 (rtpSums cfg f vec .l3) (sumFlags .l2 (rtpSums cfg f vec .l2)
        (sumFlags .l1 (rtpSums cfg f vec .l1) f.flag)) := by simp [eachLane]
  simp only [RegFile.flagSet, rtpRotate, pushSz_flag, flagHas_zFlags, rtpStoreIr3_flag, hir3,
    setIrFromMac_flag, setIrFromMac_mac, flagHas_irFlags, hmac1, hmac2, hmac3, hflag, hlanes,
    Triple.get_l1, Triple.get_l2, irRaises, or_assoc]

theorem rtpRotate_frame :
    rtpRotate cfg vec sh lm f = { f with
      mac := (rtpRotate cfg vec sh lm f).mac, ir := (rtpRotate cfg vec sh lm f).ir
      sz0 := (rtpRotate cfg vec sh lm f).sz0, sz1 := (rtpRotate cfg vec sh lm f).sz1
      sz2 := (rtpRotate cfg vec sh lm f).sz2, sz3 := (rtpRotate cfg vec sh lm f).sz3
      flag := (rtpRotate cfg vec sh lm f).flag } := by
  apply RegFile.ext <;> dsimp only <;> simp [rtpRotate, eachLane]

/-- From the divide on: what the second half of a vertex leaves in a file `f` whose screen Z is
pushed. -/
theorem rtpProject_eq :
    rtpProject cfg last f = { f with
      sxy0 := f.sxy1, sxy1 := f.sxy2
      sxy2 := ⟨screenHalf (sext 32 (asr (screenSum (rtpQuotient cfg f) f.ir.l1 f.ofx) 16)),
               screenHalf (sext 32 (asr (screenSum (rtpQuotient cfg f) f.ir.l2 f.ofy) 16))⟩
      mac0 := if last then BitVec.ofInt 32 (depthSum (rtpQuotient cfg f) f) else f.mac0
      ir0 := if last then BitVec.ofInt 16
        (clamp (asr (depthSum (rtpQuotient cfg f) f) 12) 0 0x1000) else f.ir0
      flag := (rtpProject cfg last f).flag } := by
  cases last <;> apply RegFile.ext <;> dsimp only <;>
    simp [rtpProject, rtpScreen, rtpDepthCue, depthSum]

theorem rtpProject_flagSet (b : FlagBit) :
    (rtpProject cfg last f).flagSet b = true ↔ f.flagSet b = true ∨
      (b = .divOvf ∧ f.h.toNat ≥ 2 * f.sz3.toNat) ∨
      ((b = .mac0Pos ∧ screenSum (rtpQuotient cfg f) f.ir.l1 f.ofx > 2 ^ 31 - 1) ∨
        (b = .mac0Neg ∧ screenSum (rtpQuotient cfg f) f.ir.l1 f.ofx < -2 ^ 31)) ∨
      ((b = .mac0Pos ∧ screenSum (rtpQuotient cfg f) f.ir.l2 f.ofy > 2 ^ 31 - 1) ∨
        (b = .mac0Neg ∧ screenSum (rtpQuotient cfg f) f.ir.l2 f.ofy < -2 ^ 31)) ∨
      (b = .sxSat ∧ (sext 32 (asr (screenSum (rtpQuotient cfg f) f.ir.l1 f.ofx) 16) < -0x400 ∨
        sext 32 (asr (screenSum (rtpQuotient cfg f) f.ir.l1 f.ofx) 16) > 0x3FF)) ∨
      (b = .sySat ∧ (sext 32 (asr (screenSum (rtpQuotient cfg f) f.ir.l2 f.ofy) 16) < -0x400 ∨
        sext 32 (asr (screenSum (rtpQuotient cfg f) f.ir.l2 f.ofy) 16) > 0x3FF)) ∨
      (last = true ∧
        (((b = .mac0Pos ∧ depthSum (rtpQuotient cfg f) f > 2 ^ 31 - 1) ∨
          (b = .mac0Neg ∧ depthSum (rtpQuotient cfg f) f < -2 ^ 31)) ∨
        (b = .ir0Sat ∧ (asr (depthSum (rtpQuotient cfg f) f) 12 < 0 ∨
          asr (depthSum (rtpQuotient cfg f) f) 12 > 0x1000)))) := by
  cases last <;>
    simp only [RegFile.flagSet, rtpProject, rtpScreen, rtpDepthCue, pushSxy_flag,
      rtpCheckScreen_flag, rtpDivideFlag_flag, rtpDivideFlag_ir, rtpDivideFlag_ofx,
      rtpDivideFlag_ofy, setIr0_flag, setMac0_flag, depthSum, pushSxy_dqa, pushSxy_dqb,
      rtpCheckScreen_dqa, rtpCheckScreen_dqb, rtpDivideFlag_dqa, rtpDivideFlag_dqb, flagHas_raiseIf_iff, flagHas_mac0Flags, flagHas_divideFlag, or_assoc,
      Bool.false_eq_true, if_true, if_false, false_and, or_false, true_and]

/-- The quotient of a vertex: `H` and the screen Z just pushed (R152). -/
theorem rtpRotate_quotient :
    rtpQuotient cfg (rtpRotate cfg vec sh lm f) =
      divideValue cfg f.h.toNat (rtpRotate cfg vec sh lm f).sz3.toNat := by
  rw [rtpQuotient, rtpRotate_frame]

end Sys2Proof.Machine
end

