-- ==== Sys2Proof/Laws/Unread.lean ====
section
/-!
SUPPORT. Fields an operation neither reads nor writes: the lighting stages do not touch `V0` (their
vector is an argument, 42_lighting.md R169), and the depth cue reads nothing of RGBC but its code
byte (43_depthcue_interp.md R186, 40_primitives.md R120). So the operation commutes with a change of
that field.
-/

namespace Sys2Proof.Machine

/-- `op` neither reads nor writes what `upd` changes. -/
def Commutes (upd op : RegFile → RegFile) : Prop := ∀ f, op (upd f) = upd (op f)

/-- Replace `V0`. -/
def withV0 (v : Triple Half) (f : RegFile) : RegFile := { f with v0 := v }

/-- Replace the input colour, the code byte apart. -/
def withTint (r g b : Byte) (f : RegFile) : RegFile := { f with rgbc := ⟨r, g, b, f.rgbc.code⟩ }

theorem Commutes.eachLane {upd : RegFile → RegFile} {op : Lane → RegFile → RegFile}
    (h : ∀ l, Commutes upd (op l)) : Commutes upd (eachLane op) := fun f => by
  simp only [Machine.eachLane, (h _) _]

theorem withV0_setMacIr (v : Triple Half) (cfg : Config) (l : Lane) (x : Int) (sh : Nat)
    (lm : Bool) : Commutes (withV0 v) (setMacIr cfg l x sh lm) := fun f => by
  simp only [setMacIr_eq, withV0]

theorem withV0_transform (v : Triple Half) (cfg : Config) (m : Mat3) (t : Option (Triple Word))
    (vec : Triple Half) (sh : Nat) (lm : Bool) :
    Commutes (withV0 v) (transform cfg m t vec sh lm) :=
  .eachLane fun l f => by simp only [transformLane, setIrFromMac, setIr, storeSums, withV0]

theorem withV0_interpolate (v : Triple Half) (cfg : Config) (start : Triple Int) (sh : Nat)
    (lm : Bool) : Commutes (withV0 v) (interpolate cfg start sh lm) := fun f => by
  have hdiff := Commutes.eachLane (op := interpolateDiff cfg start sh) (fun l g =>
    withV0_setMacIr v cfg l (shl (g.fc.get l).toInt 12 - start.get l) sh false g) f
  have hblend := fun g => Commutes.eachLane (op := interpolateBlend cfg start sh lm) (fun l g =>
    withV0_setMacIr v cfg l ((g.ir.get l).toInt * g.ir0.toInt + start.get l) sh lm g) g
  simp only [interpolate]
  rw [hdiff, hblend]

theorem withV0_colourTint (v : Triple Half) (cfg : Config) (kind : ColourKind) (sh : Nat)
    (lm : Bool) : Commutes (withV0 v) (colourTint cfg kind sh lm) := fun f => by
  have hc : colorMul (withV0 v f) = colorMul f := rfl
  cases kind <;> simp only [colourTint, hc]
  · exact Commutes.eachLane (fun l => withV0_setMacIr v cfg l ((colorMul f).get l) sh lm) f
  · exact withV0_interpolate v cfg (colorMul f) sh lm f

theorem withV0_pushRgb (v : Triple Half) : Commutes (withV0 v) pushRgb := fun _ => rfl

theorem withV0_normalStage (v : Triple Half) (cfg : Config) (vec : Triple Half) (kind : ColourKind)
    (sh : Nat) (lm : Bool) : Commutes (withV0 v) (normalStage cfg vec kind sh lm) := fun f => by
  have h1 := withV0_transform v cfg f.llm none vec sh lm f
  simp only [normalStage, colourStage]
  rw [show (withV0 v f).llm = f.llm from rfl, h1]
  generalize transform cfg f.llm none vec sh lm f = g
  have h2 := withV0_transform v cfg g.lcm (some g.bk) g.ir sh lm g
  rw [show (withV0 v g).lcm = g.lcm from rfl, show (withV0 v g).bk = g.bk from rfl,
    show (withV0 v g).ir = g.ir from rfl, h2, withV0_colourTint, withV0_pushRgb]

theorem withTint_setMacIr (r g b : Byte) (cfg : Config) (l : Lane) (x : Int) (sh : Nat)
    (lm : Bool) : Commutes (withTint r g b) (setMacIr cfg l x sh lm) := fun f => by
  simp only [setMacIr_eq, withTint]

theorem withTint_depthCue (r g b : Byte) (cfg : Config) (c : Colour) (sh : Nat) (lm : Bool) :
    Commutes (withTint r g b) (depthCue cfg c sh lm) := fun f => by
  simp only [depthCue]
  generalize (⟨shl c.r.toNat 16, shl c.g.toNat 16, shl c.b.toNat 16⟩ : Triple Int) = start
  have hdiff := Commutes.eachLane (op := interpolateDiff cfg start sh) (fun l k =>
    withTint_setMacIr r g b cfg l (shl (k.fc.get l).toInt 12 - start.get l) sh false k) f
  have hblend := fun k => Commutes.eachLane (op := interpolateBlend cfg start sh lm) (fun l k =>
    withTint_setMacIr r g b cfg l ((k.ir.get l).toInt * k.ir0.toInt + start.get l) sh lm k) k
  simp only [interpolate]
  rw [hdiff, hblend]
  rfl

end Sys2Proof.Machine
end

