-- ==== Sys2Proof/Tests/Slice0.lean ====
section
/-!
SUPPORT. Tests. Expected values come from the spec: the words of 30_encoding.md R92, R94, R96 and
R99, the vectors of 95_test_vectors.md (named in each docstring), and the rules a docstring cites.
Then the well-formedness smoke test, and for every obligation with hypotheses a witness that meets
them.
-/

namespace Sys2Proof.Tests

open Machine Claims

/-- A register file made from reset by writes. -/
def fileOf (writes : List (Fin 64 × Word)) : RegFile :=
  writes.foldl (fun f p => writeReg (Reg.ofIndex p.1) p.2 f) .zero

/-- The file after one step that executes `w`. -/
def after (w : Word) (writes : List (Fin 64 × Word)) : RegFile :=
  match step { file := fileOf writes, pending := [.exec w], reply := none } with
  | .next s => s.file
  | _ => .zero

/-- The words read at some indices. -/
def reads (f : RegFile) (l : List (Fin 64)) : List Word := l.map fun i => view i f

/-- The words read after one write to a reset machine. -/
def written (i : Fin 64) (v : Word) (l : List (Fin 64)) : List Word := reads (fileOf [(i, v)]) l

/-! ## Decoding -/

/-- A word laid out field by field (R92). -/
def layout (caller : BitVec 7) (fake : BitVec 5) (sf : BitVec 1) (mx v cv low : BitVec 2)
    (lm : BitVec 1) (mid : BitVec 4) (fn : BitVec 6) : Word :=
  caller ++ fake ++ sf ++ mx ++ v ++ cv ++ low ++ lm ++ mid ++ fn

/-- One word of each family, every field written out in bits (R92, R94, R96). -/
theorem test_decode_bits :
    decodeWord (layout 0b0100101 0b00001 1 0b00 0b00 0b00 0 0 0 0b000001) = .rtps true false ∧
    decodeWord (layout 0b0100101 0b01100 1 0b00 0b00 0b00 0 1 0 0b011110) = .ncs true true ∧
    decodeWord (layout 0b0100101 0b00111 0 0b00 0b00 0b00 0 1 0 0b010000) = .dpcs false true ∧
    decodeWord (layout 0b0100101 0b10100 0 0b00 0b00 0b00 0 0 0 0b000110) = .nclip ∧
    decodeWord (layout 0b0100101 0b00100 1 0b10 0b01 0b11 0 0 0 0b010010) =
      .mvmva true .lcm .v1 .none false ∧
    decodeWord (layout 0b0100101 0b00000 0 0b00 0b00 0b00 0 0 0 0b111100) = .reserved3C := by decide

/-- The four values of each selector (R211). -/
theorem test_decode_selectors :
    [0x4A400012#32, 0x4A420012#32, 0x4A440012#32, 0x4A460012#32].map decodeWord =
      [.mvmva false .rt .v0 .tr false, .mvmva false .llm .v0 .tr false,
        .mvmva false .lcm .v0 .tr false, .mvmva false .reserved .v0 .tr false] ∧
    [0x4A408012#32, 0x4A410012#32, 0x4A418012#32].map decodeWord =
      [.mvmva false .rt .v1 .tr false, .mvmva false .rt .v2 .tr false,
        .mvmva false .rt .ir .tr false] ∧
    [0x4A402012#32, 0x4A404012#32, 0x4A406012#32].map decodeWord =
      [.mvmva false .rt .v0 .bk false, .mvmva false .rt .v0 .fc false,
        .mvmva false .rt .v0 .none false] := by decide

/-- The conventional words (R99). -/
theorem test_decode_projection_geometry :
    [0x4A180001#32, 0x4A280030#32, 0x4B400006#32, 0x4B58002D#32, 0x4B68002E#32].map decodeWord =
      [.rtps true false, .rtpt true false, .nclip, .avsz3, .avsz4] ∧
    [0x4B70000C#32, 0x4B78000C#32, 0x4AA00428#32, 0x4AA80428#32].map decodeWord =
      [.op false false, .op true false, .sqr false true, .sqr true true] := by decide

/-- The conventional words (R99). -/
theorem test_decode_lighting :
    [0x4AC8041E#32, 0x4AD80420#32, 0x4AE80413#32, 0x4AF80416#32].map decodeWord =
      [.ncs true true, .nct true true, .ncds true true, .ncdt true true] ∧
    [0x4B08041B#32, 0x4B18043F#32, 0x4B280414#32, 0x4B38041C#32].map decodeWord =
      [.nccs true true, .ncct true true, .cdp true true, .cc true true] := by decide

/-- The conventional words (R99). -/
theorem test_decode_depth_cue :
    [0x4A780010#32, 0x4A980011#32, 0x4A680029#32, 0x4AF8002A#32].map decodeWord =
      [.dpcs true false, .intpl true false, .dcpl true false, .dpct true false] ∧
    [0x4B90003D#32, 0x4B98003D#32, 0x4BA0003E#32, 0x4BA8003E#32].map decodeWord =
      [.gpf false false, .gpf true false, .gpl false false, .gpl true false] := by decide

/-- The reserved codes (R96). -/
theorem test_decode_reserved_low :
    [0x4A000000#32, 0x4A000002#32, 0x4A000003#32, 0x4A000004#32, 0x4A000005#32, 0x4A000007#32,
      0x4A000008#32].map decodeWord =
      [.reserved00, .reserved02, .reserved03, .reserved04, .reserved05, .reserved07,
        .reserved08] ∧
    [0x4A000009#32, 0x4A00000A#32, 0x4A00000B#32, 0x4A00000D#32, 0x4A00000E#32, 0x4A00000F#32,
      0x4A000015#32].map decodeWord =
      [.reserved09, .reserved0A, .reserved0B, .reserved0D, .reserved0E, .reserved0F,
        .reserved15] ∧
    [0x4A000017#32, 0x4A000018#32, 0x4A000019#32, 0x4A00001A#32, 0x4A00001D#32, 0x4A00001F#32,
      0x4A000021#32].map decodeWord =
      [.reserved17, .reserved18, .reserved19, .reserved1A, .reserved1D, .reserved1F,
        .reserved21] := by decide

/-- The reserved codes (R96). -/
theorem test_decode_reserved_high :
    [0x4A000022#32, 0x4A000023#32, 0x4A000024#32, 0x4A000025#32, 0x4A000026#32, 0x4A000027#32,
      0x4A00002B#32].map decodeWord =
      [.reserved22, .reserved23, .reserved24, .reserved25, .reserved26, .reserved27,
        .reserved2B] ∧
    [0x4A00002C#32, 0x4A00002F#32, 0x4A000031#32, 0x4A000032#32, 0x4A000033#32, 0x4A000034#32,
      0x4A000035#32].map decodeWord =
      [.reserved2C, .reserved2F, .reserved31, .reserved32, .reserved33, .reserved34,
        .reserved35] ∧
    [0x4A000036#32, 0x4A000037#32, 0x4A000038#32, 0x4A000039#32, 0x4A00003A#32, 0x4A00003B#32,
      0x4A00003C#32].map decodeWord =
      [.reserved36, .reserved37, .reserved38, .reserved39, .reserved3A, .reserved3B,
        .reserved3C] := by decide

/-- Ignored bits (R93; T-RTPS-7, 7b, 7c): three words, one instruction. -/
theorem test_decode_ignored_bits :
    [0x4A180001#32, 0x00080001#32, 0xFFFFFBC1#32].map decodeWord =
      [.rtps true false, .rtps true false, .rtps true false] := by decide

/-- The minimal words (R100). -/
theorem test_encode : [Instr.rtps true false, .nclip, .sqr false true,
      .mvmva true .lcm .v1 .none true, .reserved3C].map encode =
    [0x00080001#32, 0x00000006#32, 0x00000428#32, 0x000CE412#32, 0x0000003C#32] := by decide

/-- No word is there to read (the one name the decoder rejects with). -/
theorem test_decode_nothing : decode [] = .error .noWord := rfl

/-- The host's numbering: six bits, or all 32. -/
theorem test_decode_table_word :
    [decodeTableWord 8 0x12, decodeTableWord 32 0x4B400006, decodeTableWord 32 0x4AC8041E] =
      [some (.mvmva false .rt .v0 .tr false), some .nclip, some (.ncs true true)] := by decide

/-- `withFetchWord` makes the next step run the word, as the first instruction after reset. -/
theorem test_with_fetch_word : step (State.reset.withFetchWord 32 0x4B400006) = .next .reset := rfl

/-! ## Well-formedness: 64 words no DUMP could have produced are refused -/

/-- The words of a dump of a reset machine. -/
def zeroDump : DumpWords := Vector.replicate 64 0

theorem test_dump_accepted : Dump.wellFormed config zeroDump = true := by decide

/-- Index 15 differs from index 14. -/
theorem test_dump_mirror_refused : Dump.mirrorOk (zeroDump.set 15 1) = false ∧
    Dump.wellFormed config (zeroDump.set 15 1) = false := by decide

/-- VZ0 is not sign-extended. -/
theorem test_dump_signed_refused : Dump.signedOk (zeroDump.set 1 0x00008000) = false ∧
    Dump.wellFormed config (zeroDump.set 1 0x00008000) = false := by decide

/-- SZ3 has high bits. -/
theorem test_dump_unsigned_refused : Dump.unsignedOk (zeroDump.set 19 0x00010000) = false ∧
    Dump.wellFormed config (zeroDump.set 19 0x00010000) = false := by decide

/-- `H` is not sign-extended; with `H_READ_SIGN_EXTENDS` false the same word is accepted. -/
theorem test_dump_h_refused : Dump.hOk config (zeroDump.set 58 0x00008000) = false ∧
    Dump.wellFormed config (zeroDump.set 58 0x00008000) = false ∧
    Dump.wellFormed { config with hReadSignExtends := false } (zeroDump.set 58 0x00008000) = true :=
  by decide

/-- IRGB is not the view of IR1..IR3. -/
theorem test_dump_colour_refused : Dump.colourOk (zeroDump.set 28 1) = false ∧
    Dump.wellFormed config (zeroDump.set 28 1) = false := by decide

/-- LZCR is above 32. -/
theorem test_dump_lzcr_refused : Dump.lzcrOk (zeroDump.set 31 33) = false ∧
    Dump.wellFormed config (zeroDump.set 31 33) = false := by decide

/-- FLAG has bit 31 without a constituent. -/
theorem test_dump_flag_refused : Dump.flagOk (zeroDump.set 63 0x80000000) = false ∧
    Dump.wellFormed config (zeroDump.set 63 0x80000000) = false := by decide

/-! ## Instructions: the vectors of 95_test_vectors.md, one step each -/

/-- Start S-IDENT. -/
def identity : List (Fin 64 × Word) :=
  [(32, 0x00001000), (33, 0x00000000), (34, 0x00001000), (35, 0x00000000), (36, 0x00001000)]

/-- Start S-LIGHT. -/
def lightStart : List (Fin 64 × Word) :=
  [(40, 0x00000000), (41, 0x00001000), (42, 0x08000000), (43, 0x04000400), (44, 0x00000400),
    (48, 0x02000C00), (49, 0x08000000), (50, 0x00000800), (51, 0x00000400), (52, 0x00000C00),
    (45, 0x00000100), (46, 0x00000080), (47, 0x00000040), (6, 0x20FF8040)]

/-- Start S-LCM. -/
def colourStart : List (Fin 64 × Word) :=
  [(48, 0x02000C00), (49, 0x08000000), (50, 0x00000800), (51, 0x00000400), (52, 0x00000C00),
    (45, 0x00000100), (46, 0x00000080), (47, 0x00000040), (6, 0x20FF8040)]

/-- Start S-FC. -/
def farColour : List (Fin 64 × Word) :=
  [(53, 0x00000FF0), (54, 0x00000800), (55, 0x00000000)]

/-- Start S-MVMVA. -/
def mvmvaStart : List (Fin 64 × Word) :=
  [(32, 0x08001000), (33, 0x0400F800), (34, 0x01002000), (35, 0xFFFC0003), (36, 0x00000FFF),
    (40, 0x02000100), (41, 0x04000300), (42, 0x06000500), (43, 0x08000700), (44, 0x00000900),
    (48, 0x00001000), (49, 0x00000000), (50, 0x0000F000), (51, 0x00000000), (52, 0x00000800),
    (0, 0x00200010), (1, 0x00000030), (2, 0x0040FFF0), (3, 0x00000100), (4, 0x80007FFF),
    (5, 0x00000001), (37, 0x00000100), (38, 0xFFFFFE00), (39, 0x7FFFFFFF), (45, 0x00000001),
    (46, 0x00000002), (47, 0xFFFFFFFD), (53, 0x00001000), (54, 0xFFFFF000), (55, 0x7FFFFFFF),
    (8, 0x00000123), (9, 0x00000400), (10, 0xFFFFFE00), (11, 0x00000010), (6, 0x20FF8040)]

/-- T-RTPS-1. -/
theorem test_rtps_1 :
    reads (after 0x4A180001 (identity ++
      [(39, 0x000001F4), (58, 0x00000200), (56, 0x00A00000), (57, 0x00780000),
        (59, 0x0000EF9E), (60, 0x01400000), (0, 0xFFCE0064), (1, 0x000001F4)]))
      [14, 24, 63] =
      [0x005E00D3, 0xF8DCA2BA, 0x00001000] := by decide

/-- T-RTPS-5. -/
theorem test_rtps_5 :
    reads (after 0x4A080401 (identity ++
      [(58, 0x00000100), (0, 0x0007FFFB), (1, 0x0000FFEC)]))
      [14, 25, 63] =
      [0x000D0000, 0xFFFFFFFB, 0x81060000] := by decide

set_option maxRecDepth 4000 in
/-- T-RTPT-1. -/
theorem test_rtpt_1 :
    reads (after 0x4A280030 (identity ++
      [(39, 0x000003E8), (58, 0x000003E8), (0, 0x00640064), (1, 0x00000000), (2, 0x0064FF9C),
        (3, 0x000003E8), (4, 0xFED40000), (5, 0x00000BB8), (59, 0x00000100), (60, 0x00000000)]))
      [8, 14, 63] =
      [0x00000400, 0xFFB50000, 0x00000000] := by decide

/-- T-RTPT-2. -/
theorem test_rtpt_2 :
    reads (after 0x4A280030 (identity ++
      [(58, 0x00000100), (0, 0x00010001), (1, 0x00000000), (2, 0x00020002), (3, 0x00000200),
        (4, 0x00030003), (5, 0x00000200), (19, 0x00001234)]))
      [12, 14, 63] =
      [0x00010001, 0x00010001, 0x80020000] := by decide

/-- T-NCS-1. -/
theorem test_ncs_1 :
    reads (after 0x4AC8041E (lightStart ++
      [(0, 0x00000000), (1, 0x00001000)]))
      [22, 25, 63] =
      [0x2074C8E0, 0x00000E00, 0x00000000] := by decide

/-- T-NCS-2. -/
theorem test_ncs_2 :
    reads (after 0x4AC8001E (lightStart ++
      [(0, 0x00000000), (1, 0x0000F000)]))
      [22, 25, 63] =
      [0x20000000, 0xFFFFF400, 0x00380000] := by decide

set_option maxRecDepth 4000 in
/-- T-NCT-1. -/
theorem test_nct_1 :
    reads (after 0x4AD80420 (lightStart ++
      [(0, 0x00000000), (1, 0x00001000), (2, 0x08000800), (3, 0x00000B50), (4, 0x0000F000),
        (5, 0x00000000)]))
      [20, 22, 63] =
      [0x2074C8E0, 0x20040810, 0x00400000] := by decide

set_option maxRecDepth 4000 in
/-- T-NCCS-1. -/
theorem test_nccs_1 :
    reads (after 0x4B08041B (lightStart ++
      [(0, 0x00000000), (1, 0x00001000)]))
      [22, 25, 63] =
      [0x20736438, 0x00000380, 0x00000000] := by decide

set_option maxRecDepth 4000 in
/-- T-NCCT-1. -/
theorem test_ncct_1 :
    reads (after 0x4B18043F (lightStart ++
      [(0, 0x00000000), (1, 0x00001000), (2, 0x08000800), (3, 0x00000B50), (4, 0x0000F000),
        (5, 0x00000000)]))
      [20, 22, 63] =
      [0x20736438, 0x20030404, 0x00400000] := by decide

set_option maxRecDepth 4000 in
/-- T-NCDS-1. -/
theorem test_ncds_1 :
    reads (after 0x4AE80413 (lightStart ++ farColour ++
      [(8, 0x00000800), (0, 0x00000000), (1, 0x00001000)]))
      [22, 25, 63] =
      [0x2039729B, 0x000009B8, 0x00000000] := by decide

set_option maxRecDepth 4000 in
/-- T-NCDT-1. -/
theorem test_ncdt_1 :
    reads (after 0x4AF80416 (lightStart ++ farColour ++
      [(8, 0x00000800), (0, 0x00000000), (1, 0x00001000), (2, 0x08000800), (3, 0x00000B50),
        (4, 0x0000F000), (5, 0x00000000)]))
      [20, 22, 63] =
      [0x2039729B, 0x20014281, 0x00400000] := by decide

/-- T-CC-1. -/
theorem test_cc_1 :
    reads (after 0x4B38041C (colourStart ++
      [(9, 0x00000800), (10, 0x00000400), (11, 0x00000200)]))
      [22, 25, 63] =
      [0x203B341E, 0x000001E0, 0x00000000] := by decide

/-- T-CC-2. -/
theorem test_cc_2 :
    reads (after 0x4B38041C (
      [(48, 0x02000C00), (49, 0x08000000), (50, 0x00000800), (51, 0x00000400),
        (52, 0x00000C00), (45, 0x00000100), (46, 0x00000080), (47, 0x00000040),
        (6, 0x20FFFFFF), (9, 0x00002000), (10, 0x00002000), (11, 0x00000000)]))
      [22, 25, 63] =
      [0x2083FFFF, 0x00001CE3, 0x00300000] := by decide

set_option maxRecDepth 4000 in
/-- T-CDP-1. -/
theorem test_cdp_1 :
    reads (after 0x4B280414 (colourStart ++ farColour ++
      [(8, 0x00000800), (9, 0x00000800), (10, 0x00000400), (11, 0x00000200)]))
      [22, 25, 63] =
      [0x201D5A8E, 0x000008E8, 0x00000000] := by decide

/-- T-DPCS-1. -/
theorem test_dpcs_1 :
    reads (after 0x4A780010 (farColour ++
      [(6, 0x20FF8040), (8, 0x00000800)]))
      [22, 25, 63] =
      [0x207F809F, 0x000009F8, 0x00000000] := by decide

/-- T-DPCS-2. -/
theorem test_dpcs_2 :
    reads (after 0x4A780010 (farColour ++
      [(6, 0x20FF8040), (8, 0x00001000)]))
      [22, 25, 63] =
      [0x200080FF, 0x00000FF0, 0x00000000] := by decide

/-- T-DPCT-1. -/
theorem test_dpct_1 :
    reads (after 0x4AF8002A (farColour ++
      [(6, 0x20FF8040), (8, 0x00000400), (20, 0x11102030), (21, 0x22FF0080), (22, 0x33000000)]))
      [20, 22, 63] =
      [0x200C3863, 0x2000203F, 0x00000000] := by decide

/-- T-DCPL-1. -/
theorem test_dcpl_1 :
    reads (after 0x4A680029 (farColour ++
      [(6, 0x20FF8040), (8, 0x00000800), (9, 0x00000800), (10, 0x00001000), (11, 0x00000100)]))
      [22, 25, 63] =
      [0x2007808F, 0x000008F8, 0x00000000] := by decide

/-- T-INTPL-1. -/
theorem test_intpl_1 :
    reads (after 0x4A980011 (farColour ++
      [(6, 0x20FF8040), (8, 0x00000800), (9, 0x00000100), (10, 0x00000200), (11, 0x0000FF00)]))
      [22, 25, 63] =
      [0x20005087, 0x00000878, 0x00080000] := by decide

/-- T-INTPL-3. -/
theorem test_intpl_3 :
    reads (after 0x4A980011 (
      [(53, 0x7FFFFFFF), (54, 0x80000000), (55, 0x00010000), (6, 0x20FF8040), (8, 0x00001000),
        (9, 0x00007FFF), (10, 0x00008000), (11, 0x00000000)]))
      [22, 25, 63] =
      [0x20FF00FF, 0x0000FFFE, 0x81F80000] := by decide

/-- T-GPF-1. -/
theorem test_gpf_1 :
    reads (after 0x4B98003D (
      [(6, 0x20FF8040), (8, 0x00000800), (9, 0x00000100), (10, 0x00000FF0), (11, 0x00002000)]))
      [22, 25, 63] =
      [0x20FF7F08, 0x00000080, 0x00080000] := by decide

/-- T-GPF-2. -/
theorem test_gpf_2 :
    reads (after 0x4B90003D (
      [(6, 0x20FF8040), (8, 0x00000010), (9, 0x00000100), (10, 0x000000FF), (11, 0x0000FFFD)]))
      [22, 25, 63] =
      [0x2000FFFF, 0x00001000, 0x00280000] := by decide

/-- T-GPL-1. -/
theorem test_gpl_1 :
    reads (after 0x4BA8003E (
      [(6, 0x20FF8040), (8, 0x00000800), (9, 0x00000100), (10, 0x00000FF0), (11, 0x00002000),
        (25, 0x00000010), (26, 0xFFFFFFF0), (27, 0x7FFFFFFF)]))
      [22, 25, 63] =
      [0x20007E09, 0x00000090, 0x90480000] := by decide

/-- T-GPL-3. -/
theorem test_gpl_3 :
    reads (after 0x4BA8003E (
      [(6, 0x20FF8040), (8, 0x00001000), (9, 0x00008000), (25, 0x80000000)]))
      [22, 25, 63] =
      [0x200000FF, 0x7FFF8000, 0x89200000] := by decide

/-- T-NCLIP-2. -/
theorem test_nclip_2 :
    reads (after 0x4B400006 (
      [(12, 0x00000000), (13, 0x000A0000), (14, 0x0000000A)]))
      [24, 63] =
      [0xFFFFFF9C, 0x00000000] := by decide

/-- T-NCLIP-4. -/
theorem test_nclip_4 :
    reads (after 0x4B400006 (
      [(12, 0x80007FFF), (13, 0x7FFF8000), (14, 0x7FFF7FFF)]))
      [24, 63] =
      [0x0001FFFF, 0x80008000] := by decide

/-- T-AVSZ3-1. -/
theorem test_avsz3_1 :
    reads (after 0x4B58002D (
      [(16, 0x00000064), (17, 0x000000C8), (18, 0x0000012C), (19, 0x00000190), (61, 0x00000400)]))
      [7, 24, 63] =
      [0x000000E1, 0x000E1000, 0x00000000] := by decide

/-- T-AVSZ3-4. -/
theorem test_avsz3_4 :
    reads (after 0x4B58002D (
      [(17, 0x00000001), (18, 0x00000001), (19, 0x00000001), (61, 0x0000FFFF)]))
      [7, 24, 63] =
      [0x00000000, 0xFFFFFFFD, 0x80040000] := by decide

/-- T-AVSZ4-1. -/
theorem test_avsz4_1 :
    reads (after 0x4B68002E (
      [(16, 0x00000064), (17, 0x000000C8), (18, 0x0000012C), (19, 0x00000190), (62, 0x00000400)]))
      [7, 24, 63] =
      [0x000000FA, 0x000FA000, 0x00000000] := by decide

/-- T-AVSZ4-2. -/
theorem test_avsz4_2 :
    reads (after 0x4B68002E (
      [(16, 0x0000FFFF), (17, 0x0000FFFF), (18, 0x0000FFFF), (19, 0x0000FFFF), (62, 0x00007FFF)]))
      [7, 24, 63] =
      [0x0000FFFF, 0xFFFA0004, 0x80050000] := by decide

/-- T-SQR-1. -/
theorem test_sqr_1 :
    reads (after 0x4AA00428 (
      [(9, 0x00000003), (10, 0x0000FFFC), (11, 0x00007FFF)]))
      [9, 25, 63] =
      [0x00000009, 0x00000009, 0x00400000] := by decide

/-- T-SQR-2. -/
theorem test_sqr_2 :
    reads (after 0x4AA80428 (
      [(9, 0x00001000), (10, 0x0000E000), (11, 0x00008000)]))
      [11, 25, 63] =
      [0x00007FFF, 0x00001000, 0x00400000] := by decide

/-- T-OP-2. -/
theorem test_op_2 :
    reads (after 0x4B70000C (
      [(32, 0x00000002), (34, 0x00000003), (36, 0x00000004), (9, 0x00000005),
        (10, 0x00000006), (11, 0x00000007)]))
      [11, 25, 63] =
      [0xFFFFFFFD, 0xFFFFFFFD, 0x00000000] := by decide

/-- T-OP-4. -/
theorem test_op_4 :
    reads (after 0x4B70000C (
      [(32, 0x00007FFF), (34, 0x00008000), (36, 0x00007FFF), (9, 0x00008000),
        (10, 0x00007FFF), (11, 0x00008000)]))
      [9, 25, 63] =
      [0x00007FFF, 0x0000FFFF, 0x81400000] := by decide

/-- T-MVMVA-7. -/
theorem test_mvmva_7 :
    reads (after 0x4A4E6012 (mvmvaStart))
      [11, 25, 63] =
      [0x000000C0, 0x00000007, 0x00000000] := by decide

/-- T-MVMVA-9. -/
theorem test_mvmva_9 :
    reads (after 0x4A484012 (mvmvaStart))
      [11, 25, 63] =
      [0x0000002F, 0xFFFFFFF8, 0x00400000] := by decide

/-- PROG-3: a reserved code leaves FLAG alone. -/
theorem test_reserved_keeps_flag : reads (after 0x4A00003C [(63, 0xFFFFFFFF)]) [63] = [0xFFFFF000] := by
  decide

/-- R215: every reserved meaning, on a file that is not zero. -/
theorem test_reserved_all : reservedInstrs.all (fun i =>
    match exec i { State.reset with file := fileOf [(63, 0xFFFFFFFF), (9, 5)] } with
    | .next t => t.file = fileOf [(63, 0xFFFFFFFF), (9, 5)]
    | _ => false) = true := by decide

/-! ## Shared operations -/

/-- T-OVF-1: bits 43:0 are kept. -/
theorem test_wide_wraps :
    macWord config (0x7FFFFFFF * 4096 + 0x7FFF * 0x7FFF) 12 = 0x8003FFEF := by decide

/-- T-OVF-1c: under the other reading the sum is held at the bound. -/
theorem test_wide_clamps : macWord { config with wideOverflow := .clamp }
    (0x7FFFFFFF * 4096 + 0x7FFF * 0x7FFF) 12 = 0x7FFFFFFF := by decide

/-- T-DIV-1: rows on both sides of the overflow test, and a rounded one. -/
theorem test_divide : [(0, 0), (2, 1), (1, 1), (3, 2), (0x140, 0xA1), (0x200, 0x1F4)].map
      (fun p => divideValue config p.1 p.2) =
    [0x1FFFF, 0x1FFFF, 0x10000, 0x18000, 0x1FCD2, 0x10625] := by decide

/-- T-RTPS-2d: without the IR3 quirk the clamp of MAC3 sets bit 22; with it, not (T-RTPS-2). -/
theorem test_ir3_quirk :
    let f := fileOf (identity ++ [(58, 0x00000100), (0, 0x00020001), (1, 0x00000010)])
    view 63 (rtp { config with rtpIr3Quirk := false } f.v0 0 false true f) = 0x80426000 ∧
    view 63 (rtp config f.v0 0 false true f) = 0x80026000 := by decide

/-! ## Register access -/

/-- T-REG-1, the row of each class of register. -/
theorem test_write_then_read :
    written 0 0x12348765 [0] ++ written 1 0x12348765 [1] ++ written 7 0x12348765 [7] ++
      written 6 0x12348765 [6] ++ written 28 0x12348765 [28] ++ written 29 0x12348765 [29] ++
      written 31 0x12348765 [31] ++ written 58 0x12348765 [58] ++ written 63 0x12348765 [63] =
    [0x12348765, 0xFFFF8765, 0x00008765, 0x12348765, 0x00000765, 0, 0, 0xFFFF8765, 0x92348000] := by
  decide

/-- T-REG-2: `WR 15` pushes, `WR 14` does not. -/
theorem test_sxyp :
    reads (fileOf [(14, 0x00010002), (15, 0x00030004), (15, 0x00050006)]) [12, 13, 14, 15] =
      [0x00010002, 0x00030004, 0x00050006, 0x00050006] ∧
    reads (fileOf [(15, 0x00030004), (14, 0xAAAABBBB)]) [12, 13, 14, 15] =
      [0, 0, 0xAAAABBBB, 0xAAAABBBB] := by decide

/-- T-REG-3 and T-REG-4: the 5:5:5 colour, written and read. -/
theorem test_irgb : written 28 0x00001234 [9, 10, 11, 28, 29] = [0x0A00, 0x0880, 0x0200, 0x1234, 0x1234] ∧
    reads (fileOf [(9, 0x1000), (10, 0xFFFF), (11, 0x0F80)]) [28, 29] = [0x7C1F, 0x7C1F] := by decide

/-- T-REG-5. -/
theorem test_lzcs : written 30 0 [31] ++ written 30 1 [31] ++ written 30 0xFFFFFFFF [31] ++
    written 30 0x80000000 [31] ++ written 30 0xFFFF0000 [30, 31] = [32, 31, 32, 1, 0xFFFF0000, 16] := by
  decide

/-- T-REG-6. -/
theorem test_flag_word : written 63 0x80000000 [63] ++ written 63 0x00380000 [63] ++
    written 63 0x00800000 [63] ++ written 63 0x00000FFF [63] = [0, 0x00380000, 0x80800000, 0] := by
  decide

/-- R245, R246: a dump, then a restore into a reset machine. -/
theorem test_dump_restore :
    let f := fileOf [(9, 0x8001), (15, 0x12345678), (30, 0xFFFF0000), (63, 0x00020000)]
    (dumpFile config f)[15] = 0x12345678 ∧ restoreFile (dumpFile config f) .zero = f := by decide

/-- R272: after reset LZCR reads 0, and no index reads anything else. -/
theorem test_reset : (List.finRange 64).all (fun i => view i State.reset.file = 0) = true := by decide

/-! ## Witnesses: for every obligation with hypotheses, a case that meets them -/

/-- IgnoredBitsDoNotMatter, its three clauses, each with two different words. -/
theorem witness_ignored_bits :
    (0x4A49E012#32 &&& 0x000FE43F = 0x0009E012#32 &&& 0x000FE43F) ∧
    ((0x4A180001#32).extractLsb' 0 6 ≠ 0x12 ∧
      0x4A180001#32 &&& 0x0008043F = 0xFFFFFBC1#32 &&& 0x0008043F) ∧
    ((0x4B400006#32).extractLsb' 0 6 ∈ [0x06#6, 0x2D#6, 0x2E#6] ∧
      (0x4B400006#32).extractLsb' 0 6 = (0xFFFFFFC6#32).extractLsb' 0 6) := by decide

/-- FunctionCodesSelectTheTableRows, its three clauses. -/
theorem witness_function_codes :
    (∃ row ∈ codeMap, (0x4A180001#32).extractLsb' 0 6 = row.1) ∧
    (0x4A49E012#32).extractLsb' 0 6 = 0x12 ∧ (0x4A00003C#32).extractLsb' 0 6 ∈ reservedCodes :=
  ⟨⟨_, List.mem_cons_self, rfl⟩, by decide, by decide⟩

/-- StepRunsTheDecodedInstruction. -/
theorem witness_step_runs :
    ({ State.reset with pending := [.exec 0x4B400006, .dump] } : State).pending =
      .exec 0x4B400006 :: [.dump] ∧
    decode [0x4B400006#32, 0x4A180001#32] = .ok (.nclip, [0x4A180001#32]) := ⟨rfl, rfl⟩

/-- IdleStepChangesNothing. -/
theorem witness_idle : State.reset.pending = [] := rfl

/-- HReadsSignExtended, both values of the parameter. -/
theorem witness_h : config.hReadSignExtends = true ∧
    ({ config with hReadSignExtends := false } : Config).hReadSignExtends = false := ⟨rfl, rfl⟩

/-- WritesStoreRawBits, the clause of index 14. -/
theorem witness_raw_bits : ∃ p ∈ pairFields, p.1 = 14 :=
  ⟨(14, (·.sxy2.x), (·.sxy2.y)), by simp [pairFields], rfl⟩

/-- ReadOnlyWritesAreIgnored: a step that changes LZCR. -/
theorem witness_lzcr_changes : ∃ t, step (given (.wr 30 1) .reset) = .next t ∧
    t.file.lzcr ≠ State.reset.file.lzcr := ⟨_, rfl, by decide⟩

/-- OnlyTheseTransactionsChangeFlag: a step that changes FLAG. -/
theorem witness_flag_changes : ∃ t, step (given (.wr 63 0x00001000) .reset) = .next t ∧
    t.file.flag ≠ State.reset.file.flag := ⟨_, rfl, by decide⟩

/-- RestoreSetsEveryField: words on both sides of its last clause. -/
theorem witness_restore : Dump.wellFormed config zeroDump = true ∧
    Dump.wellFormed config (zeroDump.set 31 33) = false := by decide

/-- InstructionsRaiseOnlyTheirFlags: a condition raised, and one a reserved code keeps. -/
theorem witness_raise : (after 0x4A180001 []).flagSet .divOvf = true ∧
    Instr.reserved3C ∈ reservedInstrs ∧
    (after 0x4A00003C [(63, 0x00020000)]).flagSet .divOvf = true := by decide

/-- InstructionsDoNotReadFlag. -/
theorem witness_defined : Instr.nclip ∉ reservedInstrs := by decide

/-- ReservedCodesChangeNothing. -/
theorem witness_reserved : Instr.reserved3C ∈ reservedInstrs ∧
    (0x4A00003C#32).extractLsb' 0 6 ∈ reservedCodes := by decide

/-- InstructionsNeverWriteInputs: both ways, and for a reserved word both of the source's ways. -/
theorem witness_inputs : (∃ t, exec .nclip .reset = .next t) ∧
    ReservedAllowed 0x4A00003C .reset .reset ∧
    ∃ t, ReservedAllowed 0x4A00003C .reset t ∧ exec .nclip .reset = .next t :=
  ⟨⟨_, rfl⟩, .inl rfl, _, .inr ⟨0x06, by decide, rfl⟩, rfl⟩

/-- IrIsTheSaturatedMac: a MAC outside the range of its IR, in SQR and, without the quirk, in
lane 3 of `rtp`. -/
theorem witness_ir : irWriter (.sqr false true) = some true ∧
    outside (irMin true) 0x7FFF ((after 0x4AA00428 [(11, 0x7FFF)]).mac.get .l3).toInt ∧
    outside (irMin false) 0x7FFF ((rtp { config with rtpIr3Quirk := false } ⟨0, 0, 0x10⟩ 0 false
      true (fileOf identity)).mac.get .l3).toInt := by decide

/-- IrIsTheSaturatedMac: lane 1 of RTPS, and any lane of another instruction. -/
theorem witness_ir_lanes : Lane.l1 ≠ .l3 ∧
    ∀ sf, Instr.sqr false true ≠ .rtps sf true ∧ Instr.sqr false true ≠ .rtpt sf true := by
  simp

/-- StepKeepsTheLeadingBitPair: a state whose pair is not zero, a write of LZCS and a restore
waiting. -/
theorem witness_lz_inv : ∃ s t : State, s.LzInv ∧ s.file.lzcr = 16 ∧
    s.pending = [.wr 30 5, .restore (zeroDump.set 31 0)] ∧ step s = .next t :=
  ⟨{ file := fileOf [(30, 0xFFFF0000)], pending := [.wr 30 5, .restore (zeroDump.set 31 0)],
      reply := none }, _, ⟨by decide, by
        simp [zeroDump, Transaction.KeepsLzPair, LzPair]⟩, by decide, rfl, rfl⟩

/-- WideCheckUnderBothReadings: the two bounds, one beyond each, and both readings. -/
theorem witness_wide : ¬ above44 (2 ^ 43 - 1) ∧ ¬ below44 (2 ^ 43 - 1) ∧ ¬ above44 (-2 ^ 43) ∧
    ¬ below44 (-2 ^ 43) ∧ above44 (2 ^ 43) ∧ below44 (-2 ^ 43 - 1) ∧ config.wideOverflow = .wrap ∧
    ({ config with wideOverflow := .clamp } : Config).wideOverflow = .clamp := by decide

/-- DividerFollowsTheScheme: both sides of the overflow test at its boundary, and the largest
operands. -/
theorem witness_divide : (2 * 1 ≤ 2 ∧ 1 < 2 * 1) ∧ (2 * 0 ≤ 0) ∧ (0xFFFF < 2 * 0xFFFF) ∧
    (2 * 0x7FFF ≤ 0xFFFE) ∧ (0xFFFF < 2 * 0x8000) := by decide

/-- UnrTableIsTheListing: the last index. -/
theorem witness_unr : (0x100 : Nat) ≤ 0x100 ∧ (unrListing.getD 0x100 0xFF) = 0 := by decide

/-- NclipResult, the clause on words. -/
theorem witness_nclip_word : (0x4B400006#32).extractLsb' 0 6 = 0x06 := by decide

/-- MvmvaResult. -/
theorem witness_mvmva : TransSel.none ≠ .fc ∧ TransSel.tr ≠ .fc ∧ TransSel.bk ≠ .fc := by decide

end Sys2Proof.Tests
end

/-! # The caller's list drains (00_scope.md R3, R15; log entry 1) -/

namespace Sys2Proof.Machine

/-- With no transaction waiting a step is idle (log entry 1). -/
theorem step_of_pending_nil {s : State} (h : s.pending = []) : step s = .next s := by
  rw [step, h]

/-- A step takes the oldest waiting transaction, whichever it is, and leaves the others waiting. -/
theorem step_of_pending_cons {s : State} {x : Transaction} {rest : List Transaction}
    (h : s.pending = x :: rest) : ∃ t, step s = .next t ∧ t.pending = rest := by
  obtain ⟨file, pending, reply⟩ := s
  subst h
  cases x with
  | rd i => exact ⟨_, step_rd ⟨file, [], reply⟩ rest i, rfl⟩
  | wr i v => exact ⟨_, step_wr ⟨file, [], reply⟩ rest i v, rfl⟩
  | exec w =>
    obtain ⟨f, hf⟩ := exec_cases (decodeWord w) ⟨file, rest, none⟩
    exact ⟨_, (step_exec ⟨file, [], reply⟩ rest w).trans hf, rfl⟩
  | reset => exact ⟨_, step_reset ⟨file, [], reply⟩ rest, rfl⟩
  | dump => exact ⟨_, step_dump ⟨file, [], reply⟩ rest, rfl⟩
  | restore d => exact ⟨_, step_restore ⟨file, [], reply⟩ rest d, rfl⟩

/-- Every step answers a next state, in which the list has lost its oldest transaction, if any. -/
theorem step_pending_tail (s : State) : ∃ t, step s = .next t ∧ t.pending = s.pending.tail := by
  cases h : s.pending with
  | nil => exact ⟨s, step_of_pending_nil h, h⟩
  | cons x rest => exact step_of_pending_cons h

/-- A run whose first step answers `t` continues from `t`, whatever the machine. -/
theorem run_succ_of_step (M : Host.Core) {s t : M.State} (h : M.step s = .next t) (k : Nat) :
    M.run (k + 1) s = M.run k t := by
  simp only [Host.Core.run, h]

/-- A run of `k` steps goes on, and takes the `k` oldest transactions, or all of them. -/
theorem core_run_pending_drop (k : Nat) (s : State) :
    ∃ t : State, core.run k s = .next t ∧ t.pending = s.pending.drop k := by
  induction k generalizing s with
  | zero => exact ⟨s, rfl, rfl⟩
  | succ k ih =>
    obtain ⟨s', hstep, htail⟩ := step_pending_tail s
    obtain ⟨t, hrun, hdrop⟩ := ih s'
    exact ⟨t, (run_succ_of_step core hstep k).trans hrun, by rw [hdrop, htail, List.drop_tail]⟩

/-- Settles O8: each step goes on and takes one transaction, so `k` steps leave `pending.drop k`. -/
theorem runsNeverStop : Obligations.RunsNeverStop := by
  refine ⟨fun k s => ?_, fun s => ?_⟩
  · obtain ⟨t, hrun, -⟩ := core_run_pending_drop k s
    exact ⟨t, hrun⟩
  · obtain ⟨t, hrun, hdrop⟩ := core_run_pending_drop s.pending.length s
    exact ⟨t, hrun, by rw [hdrop, List.drop_length]⟩

/-- Settles O9: the idle arm of `step`. -/
theorem idleStepChangesNothing : Obligations.IdleStepChangesNothing :=
  fun _ => step_of_pending_nil

end Sys2Proof.Machine

/-! # Reserved function codes, and the one place a defined instruction starts (R96, R112, R215) -/

namespace Sys2Proof.Machine

open Claims

/-- The reserved codes name the reserved instructions, in the same order, whatever the fields of the
word hold (R96). -/
theorem reservedInstrs_eq_map (sf : Bool) (mx : MatrixSel) (v : VectorSel) (cv : TransSel)
    (lm : Bool) :
    reservedInstrs = reservedCodes.map fun fn => instrOfCode fn.toFin sf mx v cv lm := rfl

/-- A word with a reserved function code decodes to a reserved instruction. -/
theorem decodeWord_mem_reservedInstrs {w : Word} (h : w.extractLsb' 0 6 ∈ reservedCodes) :
    decodeWord w ∈ reservedInstrs := by
  rw [reservedInstrs_eq_map (sfField w) (mxField w) (vField w) (cvField w) (lmField w)]
  exact List.mem_map_of_mem h

/-- Each of the 42 reserved instructions leaves the state as it is (R215). -/
theorem exec_of_mem_reservedInstrs {i : Instr} (h : i ∈ reservedInstrs) (s : State) :
    exec i s = .next s := by
  have hall : reservedInstrs.map (fun j => exec j s) =
      List.replicate reservedInstrs.length (.next s) := rfl
  exact List.eq_of_mem_replicate (hall ▸ List.mem_map_of_mem h)

/-- A defined instruction starts from the file with FLAG cleared (R112; FLAG_CLEARED_AT_EXEC, log
entry 7), so what FLAG held before does not matter. -/
theorem exec_flag_irrelevant {i : Instr} (hi : i ∉ reservedInstrs) (s : State) (w : Flags) :
    exec i { s with file := { s.file with flag := w } } = exec i s := by
  cases i
  case rtps => exact exec_rtps ..
  case rtpt => exact exec_rtpt ..
  case ncs => exact exec_ncs ..
  case nct => exact exec_nct ..
  case nccs => exact exec_nccs ..
  case ncct => exact exec_ncct ..
  case ncds => exact exec_ncds ..
  case ncdt => exact exec_ncdt ..
  case cc => exact exec_cc ..
  case cdp => exact exec_cdp ..
  case dpcs => exact exec_dpcs ..
  case dpct => exact exec_dpct ..
  case dcpl => exact exec_dcpl ..
  case intpl => exact exec_intpl ..
  case gpf => exact exec_gpf ..
  case gpl => exact exec_gpl ..
  case sqr => exact exec_sqr ..
  case op => exact exec_op ..
  case nclip => exact exec_nclip ..
  case avsz3 => exact exec_avsz3 ..
  case avsz4 => exact exec_avsz4 ..
  case mvmva => exact exec_mvmva ..
  all_goals exact absurd (by decide) hi

/-- Settles O29: a defined instruction clears FLAG first. -/
theorem instructionsDoNotReadFlag : Obligations.InstructionsDoNotReadFlag :=
  fun _ => exec_flag_irrelevant

/-! # The fields no instruction writes (R23, R24, R31, R34, R41) -/

/-- A file with every field that some instruction writes set to 0: what is left are the inputs, the
constants, `RES1` and the leading-bit pair. -/
def RegFile.inputPart (f : RegFile) : RegFile :=
  { f with
    otz := 0, ir0 := 0, ir := zeroTriple 16
    sxy0 := zeroXY, sxy1 := zeroXY, sxy2 := zeroXY
    sz0 := 0, sz1 := 0, sz2 := 0, sz3 := 0
    rgb0 := zeroColour, rgb1 := zeroColour, rgb2 := zeroColour
    mac0 := 0, mac := zeroTriple 32, flag := 0 }

@[simp] theorem inputPart_cleared (f : RegFile) : (cleared f).inputPart = f.inputPart := rfl

/-- An operation over three lanes writes MAC1..3, IR1..3 and FLAG alone. -/
theorem LaneEffect.inputPart {mac : Lane → Word} {ir : Lane → Half}
    {cond : Lane → FlagBit → Prop} {f g : RegFile} (h : LaneEffect mac ir cond f g) :
    g.inputPart = f.inputPart := by
  rw [h.frame]
  rfl

section

variable (cfg : Config) (sh : Nat) (lm : Bool) (f : RegFile)

@[simp] theorem inputPart_pushRgb : (pushRgb f).inputPart = f.inputPart := rfl

@[simp] theorem inputPart_transform (m : Mat3) (t : Option (Triple Word)) (vec : Triple Half) :
    (transform cfg m t vec sh lm f).inputPart = f.inputPart :=
  (transform_effect cfg m t vec sh lm f _ fun _ => rfl).inputPart

@[simp] theorem inputPart_interpolate (start : Triple Int) :
    (interpolate cfg start sh lm f).inputPart = f.inputPart :=
  (interpolate_effect cfg start sh lm f _ _ (fun _ => rfl) fun _ => rfl).inputPart

@[simp] theorem inputPart_gpfLanes :
    (eachLane (gpfLane cfg sh lm) f).inputPart = f.inputPart :=
  (gpf_effect cfg sh lm f _ fun _ => rfl).inputPart

@[simp] theorem inputPart_gplLanes :
    (eachLane (gplLane cfg sh lm) f).inputPart = f.inputPart :=
  (gpl_effect cfg sh lm f _ fun _ => rfl).inputPart

@[simp] theorem inputPart_sqrLanes :
    (eachLane (sqrLane cfg sh lm) f).inputPart = f.inputPart :=
  (sqr_effect cfg sh lm f _ fun _ => rfl).inputPart

@[simp] theorem inputPart_storeAll (v : Triple Int) :
    (eachLane (fun l => setMacIr cfg l (v.get l) sh lm) f).inputPart = f.inputPart :=
  (storeAll_effect cfg v sh lm f).inputPart

@[simp] theorem inputPart_setMac0 (v : Int) : (setMac0 v f).inputPart = f.inputPart := rfl

@[simp] theorem inputPart_storeAverage (r : Int) :
    (storeAverage r f).inputPart = f.inputPart := rfl

@[simp] theorem inputPart_mvmva (mx : MatrixSel) (v : VectorSel) (cv : TransSel) :
    (mvmva cfg sh mx v cv lm f).inputPart = f.inputPart := by
  by_cases hcv : cv = .fc
  · rw [hcv, mvmva_fc]
    exact (transformFc_effect cfg _ _ _ sh lm f _ fun _ => rfl).inputPart
  · rw [mvmva_of_ne lm hcv, inputPart_transform]

@[simp] theorem inputPart_colourTint (kind : ColourKind) :
    (colourTint cfg kind sh lm f).inputPart = f.inputPart := by
  cases kind with
  | plain => rfl
  | colour => exact inputPart_storeAll cfg sh lm f (colorMul f)
  | depth => exact inputPart_interpolate cfg sh lm f (colorMul f)

@[simp] theorem inputPart_colourStage (kind : ColourKind) :
    (colourStage cfg kind sh lm f).inputPart = f.inputPart := by
  simp only [colourStage, inputPart_pushRgb, inputPart_colourTint, inputPart_transform]

@[simp] theorem inputPart_normalStage (vec : Triple Half) (kind : ColourKind) :
    (normalStage cfg vec kind sh lm f).inputPart = f.inputPart := by
  simp only [normalStage, inputPart_colourStage, inputPart_transform]

@[simp] theorem inputPart_normalStage3 (kind : ColourKind) :
    (normalStage3 cfg kind sh lm f).inputPart = f.inputPart := by
  simp only [normalStage3, inputPart_normalStage]

@[simp] theorem inputPart_depthCue (c : Colour) :
    (depthCue cfg c sh lm f).inputPart = f.inputPart := by
  simp only [depthCue, inputPart_pushRgb, inputPart_interpolate]

@[simp] theorem inputPart_depthCueOldest :
    (depthCueOldest cfg sh lm f).inputPart = f.inputPart := by
  simp only [depthCueOldest, inputPart_depthCue]

@[simp] theorem inputPart_rtp (vec : Triple Half) (last : Bool) :
    (rtp cfg vec sh lm last f).inputPart = f.inputPart := by
  rw [rtp, rtpProject_eq, rtpRotate_frame]
  rfl

end

/-- Every instruction answers a next state that differs in the register file alone, and there in
no input. -/
theorem exec_inputPart (i : Instr) (s : State) :
    ∃ f, exec i s = .next { s with file := f } ∧ f.inputPart = s.file.inputPart := by
  cases i
  case rtps => exact ⟨_, exec_rtps .., inputPart_rtp ..⟩
  case rtpt => exact ⟨_, exec_rtpt .., by simp only [inputPart_rtp, inputPart_cleared]⟩
  case ncs => exact ⟨_, exec_ncs .., inputPart_normalStage ..⟩
  case nct => exact ⟨_, exec_nct .., inputPart_normalStage3 ..⟩
  case nccs => exact ⟨_, exec_nccs .., inputPart_normalStage ..⟩
  case ncct => exact ⟨_, exec_ncct .., inputPart_normalStage3 ..⟩
  case ncds => exact ⟨_, exec_ncds .., inputPart_normalStage ..⟩
  case ncdt => exact ⟨_, exec_ncdt .., inputPart_normalStage3 ..⟩
  case cc => exact ⟨_, exec_cc .., inputPart_colourStage ..⟩
  case cdp => exact ⟨_, exec_cdp .., inputPart_colourStage ..⟩
  case dpcs => exact ⟨_, exec_dpcs .., inputPart_depthCue ..⟩
  case dpct => exact ⟨_, exec_dpct .., by simp only [inputPart_depthCueOldest, inputPart_cleared]⟩
  case dcpl => exact ⟨_, exec_dcpl .., (inputPart_pushRgb _).trans (inputPart_interpolate ..)⟩
  case intpl => exact ⟨_, exec_intpl .., (inputPart_pushRgb _).trans (inputPart_interpolate ..)⟩
  case gpf => exact ⟨_, exec_gpf .., (inputPart_pushRgb _).trans (inputPart_gpfLanes ..)⟩
  case gpl => exact ⟨_, exec_gpl .., (inputPart_pushRgb _).trans (inputPart_gplLanes ..)⟩
  case sqr => exact ⟨_, exec_sqr .., inputPart_sqrLanes ..⟩
  case op => exact ⟨_, exec_op .., inputPart_storeAll ..⟩
  case nclip => exact ⟨_, exec_nclip .., inputPart_setMac0 ..⟩
  case avsz3 => exact ⟨_, exec_avsz3 .., inputPart_storeAverage ..⟩
  case avsz4 => exact ⟨_, exec_avsz4 .., inputPart_storeAverage ..⟩
  case mvmva => exact ⟨_, exec_mvmva .., inputPart_mvmva ..⟩
  all_goals exact ⟨s.file, rfl, rfl⟩

/-- An instruction that answers `t` leaves the inputs, the caller's list and the reply. -/
theorem exec_keeps {i : Instr} {s t : State} (h : exec i s = .next t) :
    t.file.inputPart = s.file.inputPart ∧ t.pending = s.pending ∧ t.reply = s.reply := by
  obtain ⟨f, hf, hin⟩ := exec_inputPart i s
  cases hf.symm.trans h
  exact ⟨hin, rfl, rfl⟩

/-- So does a reserved code under every behaviour the source allows it (R215). -/
theorem reservedAllowed_keeps {w : Word} {s t : State} (h : ReservedAllowed w s t) :
    t.file.inputPart = s.file.inputPart ∧ t.pending = s.pending ∧ t.reply = s.reply := by
  obtain rfl | ⟨fn, -, hexec⟩ := h
  · exact ⟨rfl, rfl, rfl⟩
  · exact exec_keeps hexec

/-- Settles O31: the handlers keep the part of the file they do not write, `inputPart`. -/
theorem instructionsNeverWriteInputs : Obligations.InstructionsNeverWriteInputs := by
  intro s t h
  obtain ⟨hin, hpending, hreply⟩ : t.file.inputPart = s.file.inputPart ∧ t.pending = s.pending ∧
      t.reply = s.reply := by
    obtain ⟨i, hi⟩ | ⟨w, hw⟩ := h
    · exact exec_keeps hi
    · exact reservedAllowed_keeps hw
  have key {α : Type} (field : RegFile → α) : field t.file.inputPart = field s.file.inputPart :=
    congrArg field hin
  exact ⟨key RegFile.v0, key RegFile.v1, key RegFile.v2, key RegFile.rgbc, key RegFile.res1,
    key RegFile.lzcs, key RegFile.lzcr, key RegFile.rt, key RegFile.tr, key RegFile.llm,
    key RegFile.bk, key RegFile.lcm, key RegFile.fc, key RegFile.ofx, key RegFile.ofy,
    key RegFile.h, key RegFile.dqa, key RegFile.dqb, key RegFile.zsf3, key RegFile.zsf4,
    hpending, hreply⟩

end Sys2Proof.Machine

/-! # The leading-bit pair and FLAG under every transaction (R34, R43, R240, R242, R246) -/

namespace Sys2Proof.Machine

open Claims

/-- Only `WR 30` writes the leading-bit pair; `WR 31` is ignored (R240, R241). -/
theorem writeReg_lzcs_lzcr {r : Reg} (hr : r ≠ .lzcs) (v : Word) (f : RegFile) :
    (writeReg r v f).lzcs = f.lzcs ∧ (writeReg r v f).lzcr = f.lzcr := by
  cases r
  case lzcs => exact absurd rfl hr
  all_goals exact ⟨rfl, rfl⟩

/-- Only `WR 63` writes FLAG (R43). -/
theorem writeReg_flag {r : Reg} (hr : r ≠ .flag) (v : Word) (f : RegFile) :
    (writeReg r v f).flag = f.flag := by
  cases r
  case flag => exact absurd rfl hr
  all_goals rfl

/-- `WR` keeps the pair: it leaves both, or stores a source with its own count. -/
theorem writeReg_lzPair (r : Reg) (v : Word) {f : RegFile} (h : LzPair f.lzcs f.lzcr) :
    LzPair (writeReg r v f).lzcs (writeReg r v f).lzcr := by
  by_cases hr : r = .lzcs
  · subst hr
    exact .inl rfl
  · obtain ⟨hs, hc⟩ := writeReg_lzcs_lzcr hr v f
    rwa [hs, hc]

/-- Whichever transaction a step takes, it keeps the pair, a `RESTORE` if its words do. -/
theorem step_given_lzPair {x : Transaction} {s t : State} (hpair : LzPair s.file.lzcs s.file.lzcr)
    (hx : x.KeepsLzPair) (h : step (given x s) = .next t) : LzPair t.file.lzcs t.file.lzcr := by
  cases x with
  | rd i =>
    cases (step_rd s s.pending i).symm.trans h
    exact hpair
  | wr i v =>
    cases (step_wr s s.pending i v).symm.trans h
    exact writeReg_lzPair _ v hpair
  | exec w =>
    obtain ⟨hin, -, -⟩ := exec_keeps ((step_exec s s.pending w).symm.trans h)
    have hs : t.file.lzcs = s.file.lzcs := (congrArg RegFile.lzcs hin :)
    have hc : t.file.lzcr = s.file.lzcr := (congrArg RegFile.lzcr hin :)
    rwa [hs, hc]
  | reset =>
    cases (step_reset s s.pending).symm.trans h
    exact .inr ⟨rfl, rfl⟩
  | dump =>
    cases (step_dump s s.pending).symm.trans h
    exact hpair
  | restore d =>
    cases (step_restore s s.pending d).symm.trans h
    rw [restoreFile_eq]
    exact hx

/-- Settles O37: an idle step changes nothing, and a step that takes a transaction keeps the pair and
leaves the rest of the list, whose `RESTORE`s are among those that waited. -/
theorem stepKeepsTheLeadingBitPair : Obligations.StepKeepsTheLeadingBitPair := by
  rintro ⟨file, pending, reply⟩ t ⟨hpair, hwait⟩ h
  cases pending with
  | nil =>
    cases (step_of_pending_nil rfl).symm.trans h
    exact ⟨hpair, hwait⟩
  | cons x rest =>
    obtain ⟨u, hu, hrest⟩ := step_of_pending_cons (s := ⟨file, x :: rest, reply⟩) rfl
    cases hu.symm.trans h
    obtain ⟨hx, hwaitRest⟩ := List.forall_mem_cons.1 hwait
    refine ⟨step_given_lzPair (s := ⟨file, rest, reply⟩) hpair hx h, ?_⟩
    rwa [hrest]

/-! FLAG -/

/-- Bit 31 of the read view is the OR of its constituents (R43). -/
theorem flagView_bit31 (w : Flags) :
    (flagView w).getLsbD 31 = decide (flagView w &&& errMask ≠ 0) := by
  have hmask : flagView w &&& errMask = flagPlaced w &&& errMask := by
    apply BitVec.eq_of_getLsbD_eq
    intro i hi
    by_cases h31 : i = 31
    · subst h31
      simp [errMask]
    · simp only [flagView, flagPlaced, BitVec.getLsbD_and, BitVec.getLsbD_append]
      obtain hlow | hstored : i < 12 ∨ i - 12 < 19 := by omega
      · simp only [hlow, if_true]
      · simp only [hstored, if_true]
  have hbit : (flagView w).getLsbD 31 = errBit w := by
    simp only [flagView, BitVec.getLsbD_append]
    cases errBit w <;> rfl
  rw [hbit, hmask, errBit, Bool.eq_iff_iff, bne_iff_ne, decide_eq_true_iff]

/-- A step that changes the stored conditions takes one of the four transactions of R43. -/
theorem step_given_flag_ne {x : Transaction} {s t : State} (h : step (given x s) = .next t)
    (hne : t.file.flag ≠ s.file.flag) :
    (∃ w, x = .exec w ∧ w.extractLsb' 0 6 ∉ reservedCodes) ∨ (∃ v, x = .wr 63 v) ∨ x = .reset ∨
      ∃ d, x = .restore d := by
  cases x with
  | rd i =>
    cases (step_rd s s.pending i).symm.trans h
    exact absurd rfl hne
  | wr i v =>
    cases (step_wr s s.pending i v).symm.trans h
    have hi : Reg.ofIndex i = .flag := by
      by_contra hr
      exact hne (writeReg_flag hr v s.file)
    have h63 : i = 63 := by rw [← Reg.index_ofIndex i, hi, Reg.index]
    exact .inr (.inl ⟨v, by rw [h63]⟩)
  | exec w =>
    refine .inl ⟨w, rfl, fun hw => hne ?_⟩
    have hidle := exec_of_mem_reservedInstrs (decodeWord_mem_reservedInstrs hw)
      { s with reply := none }
    cases hidle.symm.trans ((step_exec s s.pending w).symm.trans h)
    rfl
  | reset => exact .inr (.inr (.inl rfl))
  | dump =>
    cases (step_dump s s.pending).symm.trans h
    exact absurd rfl hne
  | restore d => exact .inr (.inr (.inr ⟨d, rfl⟩))

/-- Settles O23: every other transaction leaves the stored conditions, and bit 31 is derived from
them at every read. -/
theorem onlyTheseTransactionsChangeFlag : Obligations.OnlyTheseTransactionsChangeFlag :=
  fun _ _ t h => ⟨step_given_flag_ne h, flagView_bit31 t.file.flag⟩

end Sys2Proof.Machine

/-! # IR1..IR3 and the stored MACs (R46, R116, R118, R152) -/

namespace Sys2Proof.Machine

open Claims

/-- What `set_ir` stores is the value held in the range `lm` selects (R116). -/
theorem irHalf_toInt_eq_sat (v : Int) (lm : Bool) :
    (irHalf v lm).toInt = sat (irMin lm) 0x7FFF v := by
  rw [irHalf_toInt, clamp_eq_max_min ((irLow_mem lm).2.trans (by decide))]
  rfl

/-- IR1..IR3 of `g` are its MACs held in the range `lm` selects, and for each lane of `recorded` a
MAC outside the range has its condition recorded. -/
structure IrHeld (lm : Bool) (recorded : Lane → Prop) (g : RegFile) : Prop where
  ir : irFromMac lm g
  flag : ∀ l, recorded l → outside (irMin lm) 0x7FFF (g.mac.get l).toInt →
    g.flagSet (irSat l) = true

/-- An operation over three lanes that ends in `set_ir(i, MACi, lm)` leaves IR held. -/
theorem LaneEffect.irHeld {lm : Bool} {m : Lane → Word} {cond : Lane → FlagBit → Prop}
    {f g : RegFile} (h : LaneEffect m (fun l => irHalf (m l).toInt lm) cond f g)
    (hcond : ∀ l b, irRaises (m l).toInt lm l b → cond l b) (recorded : Lane → Prop) :
    IrHeld lm recorded g where
  ir l := by rw [h.ir, h.mac, irHalf_toInt_eq_sat]
  flag l _ hout := (h.flag _).2 (.inr ⟨l, hcond l _ ⟨rfl, by rwa [h.mac] at hout⟩⟩)

/-- The colour push reads the MACs, leaves MAC and IR, and forgets no condition (R120). -/
theorem irHeld_pushRgb {lm : Bool} {recorded : Lane → Prop} {f : RegFile}
    (h : IrHeld lm recorded f) : IrHeld lm recorded (pushRgb f) where
  ir := h.ir
  flag l hl hout := (pushRgb_flagSet f _).2 (.inl (h.flag l hl hout))

/-- From the divide on a vertex writes neither MAC1..3 nor IR1..3, and forgets no condition. -/
theorem irHeld_rtpProject (cfg : Config) (last : Bool) {lm : Bool} {recorded : Lane → Prop}
    {f : RegFile} (h : IrHeld lm recorded f) : IrHeld lm recorded (rtpProject cfg last f) where
  ir l := by
    rw [rtpProject_eq]
    exact h.ir l
  flag l hl hout := by
    rw [rtpProject_eq] at hout
    exact (rtpProject_flagSet cfg last f _).2 (.inl (h.flag l hl hout))

section

variable (cfg : Config) (sh : Nat) (lm : Bool) (f : RegFile) (recorded : Lane → Prop)

theorem irHeld_transform (m : Mat3) (t : Option (Triple Word)) (vec : Triple Half) :
    IrHeld lm recorded (transform cfg m t vec sh lm f) :=
  (transform_effect cfg m t vec sh lm f _ fun _ => rfl).irHeld
    (fun _ _ h => .inr (.inr (.inr h))) recorded

theorem irHeld_transformFc (m : Mat3) (fc : Triple Word) (vec : Triple Half) :
    IrHeld lm recorded (transformFc cfg m fc vec sh lm f) :=
  (transformFc_effect cfg m fc vec sh lm f _ fun _ => rfl).irHeld
    (fun _ _ h => .inr (.inr (.inr (.inr h)))) recorded

theorem irHeld_mvmva (mx : MatrixSel) (v : VectorSel) (cv : TransSel) :
    IrHeld lm recorded (mvmva cfg sh mx v cv lm f) := by
  by_cases hcv : cv = .fc
  · rw [hcv, mvmva_fc]
    exact irHeld_transformFc ..
  · rw [mvmva_of_ne lm hcv]
    exact irHeld_transform ..

theorem irHeld_interpolate (start : Triple Int) :
    IrHeld lm recorded (interpolate cfg start sh lm f) :=
  (interpolate_effect cfg start sh lm f _ _ (fun _ => rfl) fun _ => rfl).irHeld
    (fun _ _ h => .inr (.inr h)) recorded

theorem irHeld_storeAll (v : Triple Int) :
    IrHeld lm recorded (eachLane (fun l => setMacIr cfg l (v.get l) sh lm) f) :=
  (storeAll_effect cfg v sh lm f).irHeld (fun _ _ h => .inr h) recorded

theorem irHeld_sqrLanes : IrHeld lm recorded (eachLane (sqrLane cfg sh lm) f) :=
  (sqr_effect cfg sh lm f _ fun _ => rfl).irHeld (fun _ _ h => .inr h) recorded

theorem irHeld_gpfLanes : IrHeld lm recorded (eachLane (gpfLane cfg sh lm) f) :=
  (gpf_effect cfg sh lm f _ fun _ => rfl).irHeld (fun _ _ h => .inr h) recorded

theorem irHeld_gplLanes : IrHeld lm recorded (eachLane (gplLane cfg sh lm) f) :=
  (gpl_effect cfg sh lm f _ fun _ => rfl).irHeld (fun _ _ h => .inr h) recorded

/-- The last lane operation of a colour stage is the transform, the colour multiply or the
interpolation, by its kind (R168). -/
theorem irHeld_colourStage (kind : ColourKind) :
    IrHeld lm recorded (colourStage cfg kind sh lm f) := by
  refine irHeld_pushRgb ?_
  cases kind with
  | plain => exact irHeld_transform ..
  | colour => exact irHeld_storeAll ..
  | depth => exact irHeld_interpolate ..

theorem irHeld_normalStage (vec : Triple Half) (kind : ColourKind) :
    IrHeld lm recorded (normalStage cfg vec kind sh lm f) :=
  irHeld_colourStage ..

theorem irHeld_normalStage3 (kind : ColourKind) :
    IrHeld lm recorded (normalStage3 cfg kind sh lm f) :=
  irHeld_normalStage ..

theorem irHeld_depthCue (c : Colour) : IrHeld lm recorded (depthCue cfg c sh lm f) :=
  irHeld_pushRgb (irHeld_interpolate ..)

theorem irHeld_depthCueOldest : IrHeld lm recorded (depthCueOldest cfg sh lm f) :=
  irHeld_depthCue ..

/-! One vertex: lane 3's condition is decided on MAC3 unless `RTP_IR3_QUIRK` is set (R152, notes 3
and 7). -/

theorem irHeld_rtpRotate (vec : Triple Half) (hrec : recorded .l3 → cfg.rtpIr3Quirk = false) :
    IrHeld lm recorded (rtpRotate cfg vec sh lm f) where
  ir l := by rw [rtpRotate_ir, rtpRotate_mac, irHalf_toInt_eq_sat]
  flag l hl hout := by
    rw [rtpRotate_mac] at hout
    refine (rtpRotate_flagSet cfg vec sh lm f _).2 (.inr (.inr ?_))
    cases l with
    | l1 => exact .inl ⟨rfl, hout⟩
    | l2 => exact .inr (.inl ⟨rfl, hout⟩)
    | l3 => exact .inr (.inr (.inl ⟨rfl, by rw [if_neg (by simp [hrec hl])]; exact hout⟩))

theorem irHeld_rtp (vec : Triple Half) (last : Bool)
    (hrec : recorded .l3 → cfg.rtpIr3Quirk = false) :
    IrHeld lm recorded (rtp cfg vec sh lm last f) :=
  irHeld_rtpProject cfg last (irHeld_rtpRotate cfg sh lm f recorded vec hrec)

end

/-- The lanes whose condition an instruction decides on the stored MAC: all, but lane 3 of RTPS and
RTPT (log entry 8). -/
def macDecides (i : Instr) (lm : Bool) (l : Lane) : Prop :=
  (∀ sf, i ≠ .rtps sf lm ∧ i ≠ .rtpt sf lm) ∨ l ≠ .l3

theorem not_macDecides_rtps (sf lm : Bool) : ¬ macDecides (.rtps sf lm) lm .l3 := by
  rintro (h | h)
  · exact (h sf).1 rfl
  · exact h rfl

theorem not_macDecides_rtpt (sf lm : Bool) : ¬ macDecides (.rtpt sf lm) lm .l3 := by
  rintro (h | h)
  · exact (h sf).2 rfl
  · exact h rfl

/-- Each instruction that writes IR1..IR3 ends in a lane operation that leaves IR held. -/
theorem exec_irHeld {i : Instr} {lm : Bool} (hi : irWriter i = some lm) (s : State) :
    ∃ f, exec i s = .next { s with file := f } ∧ IrHeld lm (macDecides i lm) f := by
  cases i <;> cases hi
  case rtps =>
    exact ⟨_, exec_rtps .., irHeld_rtp _ _ _ _ _ _ _ fun h =>
      absurd h (not_macDecides_rtps _ _)⟩
  case rtpt =>
    exact ⟨_, exec_rtpt .., irHeld_rtp _ _ _ _ _ _ _ fun h =>
      absurd h (not_macDecides_rtpt _ _)⟩
  case ncs => exact ⟨_, exec_ncs .., irHeld_normalStage ..⟩
  case nct => exact ⟨_, exec_nct .., irHeld_normalStage3 ..⟩
  case nccs => exact ⟨_, exec_nccs .., irHeld_normalStage ..⟩
  case ncct => exact ⟨_, exec_ncct .., irHeld_normalStage3 ..⟩
  case ncds => exact ⟨_, exec_ncds .., irHeld_normalStage ..⟩
  case ncdt => exact ⟨_, exec_ncdt .., irHeld_normalStage3 ..⟩
  case cc => exact ⟨_, exec_cc .., irHeld_colourStage ..⟩
  case cdp => exact ⟨_, exec_cdp .., irHeld_colourStage ..⟩
  case dpcs => exact ⟨_, exec_dpcs .., irHeld_depthCue ..⟩
  case dpct => exact ⟨_, exec_dpct .., irHeld_depthCueOldest ..⟩
  case dcpl => exact ⟨_, exec_dcpl .., irHeld_pushRgb (irHeld_interpolate ..)⟩
  case intpl => exact ⟨_, exec_intpl .., irHeld_pushRgb (irHeld_interpolate ..)⟩
  case gpf => exact ⟨_, exec_gpf .., irHeld_pushRgb (irHeld_gpfLanes ..)⟩
  case gpl => exact ⟨_, exec_gpl .., irHeld_pushRgb (irHeld_gplLanes ..)⟩
  case sqr => exact ⟨_, exec_sqr .., irHeld_sqrLanes ..⟩
  case op => exact ⟨_, exec_op .., irHeld_storeAll ..⟩
  case mvmva => exact ⟨_, exec_mvmva .., irHeld_mvmva ..⟩

/-- Settles O35: every last store into IR is `set_ir(i, MACi, lm)`, but that of lane 3 of a vertex,
which decides its condition on the screen Z under `RTP_IR3_QUIRK`. -/
theorem irIsTheSaturatedMac : Obligations.IrIsTheSaturatedMac := by
  refine ⟨fun i lm hi s => ?_, fun cfg hquirk vec sh lm last f => ?_⟩
  · obtain ⟨f, hexec, hir, hflag⟩ := exec_irHeld hi s
    exact ⟨_, hexec, hir, hflag⟩
  · obtain ⟨hir, hflag⟩ := irHeld_rtp cfg sh lm f (fun _ => True) vec last fun _ => hquirk
    exact ⟨hir, fun l => hflag l trivial⟩

end Sys2Proof.Machine

/-! # What a read and a write leave unchanged (20_memory.md R77, R78) -/

namespace Sys2Proof.Machine

open Claims

/-! Reads -/

/-- `RD` leaves its index's word as the reply and nothing else. -/
theorem step_given_rd (i : Fin 64) (s : State) :
    step (given (.rd i) s) = .next { s with reply := some (.word (view i s.file)) } :=
  step_rd s s.pending i

/-- Two steps in a row are a run of two. -/
theorem core_run_two {s t u : State} (hst : step s = .next t) (htu : step t = .next u) :
    core.run 2 s = .next u :=
  (run_succ_of_step core (s := s) (t := t) hst 1).trans
    (run_succ_of_step core (s := t) (t := u) htu 0)

/-- Settles O14: the second read starts from the register file the first one found. -/
theorem readsHaveNoSideEffect : Obligations.ReadsHaveNoSideEffect := by
  intro i s
  have hfirst := step_given_rd i (given (.rd i) s)
  have hsecond := step_given_rd i { s with reply := some (.word (view i s.file)) }
  exact ⟨step_given_rd i s, _, core_run_two hfirst hsecond, rfl⟩

/-! Writes: each side effect is a sequence of plain stores, so a write changes no word that those
stores do not change. -/

/-- `WR 15` moves the two younger entries of the FIFO down and stores the word as the youngest. -/
theorem writeSxyp_eq_storeReg (cfg : Config) (v : Word) (f : RegFile) :
    writeSxyp v f = storeReg .sxy2 v
      (storeReg .sxy1 (readReg cfg .sxy2 f) (storeReg .sxy0 (readReg cfg .sxy1 f) f)) := by
  simp only [writeSxyp, storeReg, readReg, lo_append, hi_append]

/-- `WR 28` stores one component into each of IR1, IR2, IR3. -/
theorem writeIrgb_eq_storeReg (v : Word) (f : RegFile) :
    writeIrgb v f = storeReg .ir3 (readSigned (colourUnpack (v.extractLsb' 10 5)))
      (storeReg .ir2 (readSigned (colourUnpack (v.extractLsb' 5 5)))
        (storeReg .ir1 (readSigned (colourUnpack (v.extractLsb' 0 5))) f)) := by
  simp only [writeIrgb, storeReg, lo_readSigned]

/-- `WR 30` stores the source and its count. -/
theorem writeLzcs_eq_storeReg (v : Word) (f : RegFile) :
    writeLzcs v f = storeReg .lzcr (BitVec.ofNat 32 (signRun v)) (storeReg .lzcs v f) := by
  simp only [writeLzcs, storeReg, BitVec.setWidth_ofNat_of_le (show 6 ≤ 32 by decide)]

/-- The registers whose word `WR` of a register can change (R78). -/
def Reg.touched : Reg → List Reg
  | .sxyp => [.sxy0, .sxy1, .sxy2, .sxyp]
  | .irgb => [.ir1, .ir2, .ir3, .irgb, .orgb]
  | .lzcs => [.lzcs, .lzcr]
  | .orgb | .lzcr => []
  | r => r :: r.derived

/-- By index they are the list of R78. -/
theorem Reg.map_index_touched (r : Reg) : r.touched.map Reg.index = affected r.index := by
  cases r <;> rfl

/-- A plain store changes no word outside its own and the derived ones. -/
theorem readReg_storeReg_of_not_mem (cfg : Config) {q r : Reg} (v : Word) (f : RegFile)
    (hq : q ∉ r :: r.derived) : readReg cfg q (storeReg r v f) = readReg cfg q f :=
  readReg_storeReg_of_ne cfg v f (List.ne_of_not_mem_cons hq) (List.not_mem_of_not_mem_cons hq)

/-- A write changes the words of the touched registers alone (R78). -/
theorem readReg_writeReg_of_not_mem_touched (cfg : Config) {q r : Reg} (v : Word) (f : RegFile)
    (hq : q ∉ r.touched) : readReg cfg q (writeReg r v f) = readReg cfg q f := by
  have keep {p : Reg} (w : Word) (g : RegFile) (hp : p :: p.derived ⊆ r.touched) :
      readReg cfg q (storeReg p w g) = readReg cfg q g :=
    readReg_storeReg_of_not_mem cfg w g fun h => hq (hp h)
  cases r
  case sxyp =>
    rw [writeReg, writeSxyp_eq_storeReg cfg, keep _ _ (by decide), keep _ _ (by decide),
      keep _ _ (by decide)]
  case irgb =>
    rw [writeReg, writeIrgb_eq_storeReg, keep _ _ (by decide), keep _ _ (by decide),
      keep _ _ (by decide)]
  case lzcs =>
    rw [writeReg, writeLzcs_eq_storeReg, keep _ _ (by decide), keep _ _ (by decide)]
  case orgb => rfl
  case lzcr => rfl
  all_goals exact readReg_storeReg_of_not_mem cfg v f hq

/-- The same by index, as R78 lists the indices. -/
theorem view_writeReg_of_not_mem_affected {i j : Fin 64} (v : Word) (f : RegFile)
    (hj : j ∉ affected i) : view j (writeReg (Reg.ofIndex i) v f) = view j f := by
  refine readReg_writeReg_of_not_mem_touched config v f fun htouched => hj ?_
  have hmem := List.mem_map_of_mem (f := Reg.index) htouched
  rwa [Reg.map_index_touched, Reg.index_ofIndex, Reg.index_ofIndex] at hmem

/-- Settles O22: the written file differs in the words of the touched registers alone. -/
theorem writesAffectOnlyTheListedIndices : Obligations.WritesAffectOnlyTheListedIndices :=
  fun i v s => ⟨_, step_wr s s.pending i v,
    fun _ hj => view_writeReg_of_not_mem_affected v s.file hj, rfl, rfl⟩

end Sys2Proof.Machine

/-! # Decode and encode agree (R92, R93, R94, R96, R100) -/

namespace Sys2Proof

/-! The encoder's words, read by the decoder -/

/-- The word of given fields decodes to the table's row for these fields. -/
theorem decodeWord_fieldsWord (sf : Bool) (mx : MatrixSel) (v : VectorSel) (cv : TransSel)
    (lm : Bool) (fn : BitVec 6) :
    decodeWord (fieldsWord sf mx v cv lm fn) = instrOfCode fn.toFin sf mx v cv lm := by
  rw [decodeWord, fnField_eq (fieldsWord_fn ..), fieldsWord_sf, fieldsWord_mx, fieldsWord_v,
    fieldsWord_cv, fieldsWord_lm]

/-- Each instruction's minimal word has its fields, so its row of the table is the instruction. -/
theorem decodeWord_encode (i : Instr) : decodeWord (encode i) = i := by
  cases i <;> exact decodeWord_fieldsWord ..

/-! The words the encoder gives for the fields of a word -/

/-- The six fields of a word, put back in their places, are the word without the bits 31:20, 12:11
and 9:6, which no handler honours (R92, R93). -/
theorem fieldsWord_fields (w : Word) :
    fieldsWord (sfField w) (mxField w) (vField w) (cvField w) (lmField w) (w.extractLsb' 0 6) =
      w &&& 0x000FE43F := by
  apply BitVec.eq_of_getLsbD_eq
  intro i hi
  simp only [fieldsWord, mxField, vField, cvField, MatrixSel.bits_ofBits, VectorSel.bits_ofBits,
    TransSel.bits_ofBits, sfField, lmField, BitVec.getLsbD_and, BitVec.getLsbD_append,
    BitVec.getLsbD_extractLsb']
  interval_cases i <;> simp

/-- Clearing bits outside a mask that has bits 5:0 keeps the function code. -/
theorem fn_of_and (w : Word) {m : Word} (hm : ∀ k < 6, m.getLsbD k = true) :
    (w &&& m).extractLsb' 0 6 = w.extractLsb' 0 6 :=
  extractLsb'_of_and_eq (by rw [BitVec.and_assoc, BitVec.and_self]) (by simpa using hm)

/-- With the selector bits cleared, the selectors are those numbered 0. -/
theorem sfLmWord_fields (w : Word) :
    sfLmWord (sfField w) (lmField w) (w.extractLsb' 0 6) = w &&& 0x0008043F := by
  have hkept := fieldsWord_fields (w &&& 0x0008043F)
  rw [fn_of_and w (by decide)] at hkept
  simpa [sfLmWord, sfField, lmField, mxField, vField, cvField, BitVec.extractLsb'_and,
    BitVec.and_assoc, MatrixSel.ofBits, VectorSel.ofBits, TransSel.ofBits] using hkept

/-- With every bit but the function code's cleared, all other fields are 0. -/
theorem codeWord_code (w : Word) : codeWord (w.extractLsb' 0 6) = w &&& 0x0000003F := by
  have hkept := fieldsWord_fields (w &&& 0x0000003F)
  rw [fn_of_and w (by decide)] at hkept
  simpa [codeWord, sfField, lmField, mxField, vField, cvField, BitVec.extractLsb'_and,
    BitVec.and_assoc, MatrixSel.ofBits, VectorSel.ofBits, TransSel.ofBits] using hkept

/-- Each row of the opcode map is encoded with the fields its handler honours (R94). -/
theorem encode_instrOfCode (fn : Fin 64) (sf : Bool) (mx : MatrixSel) (v : VectorSel)
    (cv : TransSel) (lm : Bool) :
    encode (instrOfCode fn sf mx v cv lm) =
      fieldsWord sf mx v cv lm (.ofFin fn) &&& honouredMask (instrOfCode fn sf mx v cv lm) := by
  have hcode : ∀ fn, codeWord fn = fieldsWord sf mx v cv lm fn &&& 0x0000003F := fun fn => by
    rw [← codeWord_code, fieldsWord_fn]
  have hsfLm : ∀ fn, sfLmWord sf lm fn = fieldsWord sf mx v cv lm fn &&& 0x0008043F := fun fn => by
    rw [← sfLmWord_fields, fieldsWord_sf, fieldsWord_lm, fieldsWord_fn]
  have hall : ∀ fn, fieldsWord sf mx v cv lm fn &&& 0x000FE43F#32 = fieldsWord sf mx v cv lm fn :=
    fun fn => (fieldsWord_fields _).symm.trans <| by
      rw [fieldsWord_sf, fieldsWord_mx, fieldsWord_v, fieldsWord_cv, fieldsWord_lm, fieldsWord_fn]
  fin_cases fn <;>
    simp [instrOfCode, codeTable, encode, honouredMask, hcode, hsfLm, hall]

/-- The bits a handler honours lie in the bits of the six fields (R92). -/
theorem honouredMask_and_fields (i : Instr) : 0x000FE43F &&& honouredMask i = honouredMask i := by
  rcases honouredMask_cases i with h | h | h <;> rw [h] <;> decide

theorem encode_decodeWord (w : Word) : encode (decodeWord w) = w &&& honouredMask (decodeWord w) :=
  calc encode (decodeWord w)
    _ = fieldsWord (sfField w) (mxField w) (vField w) (cvField w) (lmField w) (w.extractLsb' 0 6)
          &&& honouredMask (decodeWord w) := encode_instrOfCode ..
    _ = w &&& honouredMask (decodeWord w) := by
      rw [fieldsWord_fields, BitVec.and_assoc, honouredMask_and_fields]

/-! Decoding does not depend on the ignored bits -/

/-- Which bits are honoured is a matter of the function code alone (R92, R93). -/
theorem honouredMask_instrOfCode (fn : Fin 64) (sf : Bool) (mx : MatrixSel) (v : VectorSel)
    (cv : TransSel) (lm : Bool) :
    honouredMask (instrOfCode fn sf mx v cv lm) =
      honouredMask (instrOfCode fn false .rt .v0 .tr false) := by
  fin_cases fn <;> rfl

theorem honouredMask_decodeWord (w : Word) : honouredMask (decodeWord w) =
    honouredMask (instrOfCode (fnField w) false .rt .v0 .tr false) :=
  honouredMask_instrOfCode ..

/-- Words that agree on a set of bits with all those honoured decode to one instruction: they have
the same function code, so the same honoured bits, so the same minimal word. -/
theorem decodeWord_congr {w u m : Word}
    (hm : m &&& honouredMask (decodeWord u) = honouredMask (decodeWord u))
    (h : w &&& m = u &&& m) : decodeWord w = decodeWord u := by
  have hhonoured : w &&& honouredMask (decodeWord u) = u &&& honouredMask (decodeWord u) := by
    rw [← hm, ← BitVec.and_assoc, h, BitVec.and_assoc]
  have hmask : honouredMask (decodeWord w) = honouredMask (decodeWord u) := by
    rw [honouredMask_decodeWord w, fnField_of_and_eq hhonoured (honouredMask_fn _),
      ← honouredMask_decodeWord]
  have hencode : encode (decodeWord w) = encode (decodeWord u) := by
    rw [encode_decodeWord, encode_decodeWord, hmask, hhonoured]
  rw [← decodeWord_encode (decodeWord w), hencode, decodeWord_encode]

/-- The ignored bits of a word may hold anything. -/
theorem decodeWord_or_ignored (w junk : Word) :
    decodeWord (w ||| (junk &&& ~~~ honouredMask (decodeWord w))) = decodeWord w := by
  refine decodeWord_congr (BitVec.and_self ..) ?_
  rw [BitVec.and_or_distrib_right, BitVec.and_assoc junk, BitVec.not_and_self]
  simp

/-- Settles O1: a word decodes as the encoder's word does, whatever its ignored bits hold. -/
theorem decodeOfEncodeGivesTheInstruction : Obligations.DecodeOfEncodeGivesTheInstruction := by
  intro i junk rest
  have hword := decodeWord_or_ignored (encode i) junk
  rw [decodeWord_encode] at hword
  rw [decode, hword]

/-- Settles O2: each row is encoded with the fields its handler honours. -/
theorem encodeOfDecodeKeepsHonouredBits : Obligations.EncodeOfDecodeKeepsHonouredBits :=
  encode_decodeWord

end Sys2Proof

/-! # The opcode map (R94, R99, R211) -/

namespace Sys2Proof

open Claims

/-- The rows of the opcode map stand in the decoder's table at their function codes (R94). -/
theorem instrOfCode_of_mem_codeMap {row : BitVec 6 × (Bool → Bool → Instr)} (h : row ∈ codeMap)
    (sf : Bool) (mx : MatrixSel) (v : VectorSel) (cv : TransSel) (lm : Bool) :
    instrOfCode row.1.toFin sf mx v cv lm = row.2 sf lm := by
  have hrows : codeMap.map (fun row => instrOfCode row.1.toFin sf mx v cv lm) =
      codeMap.map (fun row => row.2 sf lm) := rfl
  exact List.map_inj_left.mp hrows row h

/-- A word decodes to the table's row of its function code. -/
theorem decodeWord_of_code {w : Word} {fn : BitVec 6} (h : w.extractLsb' 0 6 = fn) :
    decodeWord w =
      instrOfCode fn.toFin (sfField w) (mxField w) (vField w) (cvField w) (lmField w) := by
  rw [decodeWord, fnField_eq h]

/-! The selectors in the order of R211 -/

theorem MatrixSel.getElem?_toNat (b : BitVec 2) :
    [MatrixSel.rt, .llm, .lcm, .reserved][b.toNat]? = some (.ofBits b) := by
  revert b; decide

theorem VectorSel.getElem?_toNat (b : BitVec 2) :
    [VectorSel.v0, .v1, .v2, .ir][b.toNat]? = some (.ofBits b) := by
  revert b; decide

theorem TransSel.getElem?_toNat (b : BitVec 2) :
    [TransSel.tr, .bk, .fc, .none][b.toNat]? = some (.ofBits b) := by
  revert b; decide

/-- Settles O4: the rows of R94 stand in the decoder's table at their codes. -/
theorem functionCodesSelectTheTableRows : Obligations.FunctionCodesSelectTheTableRows := by
  refine ⟨fun w row hrow hfn => ?_, fun w hfn => ?_, fun w => Machine.decodeWord_mem_reservedInstrs⟩
  · rw [decodeWord_of_code hfn, instrOfCode_of_mem_codeMap hrow, sfField, lmField]
  · exact ⟨mxField w, vField w, cvField w, decodeWord_of_code hfn, MatrixSel.getElem?_toNat _,
      VectorSel.getElem?_toNat _, TransSel.getElem?_toNat _⟩

/-- Settles O5: the decoder evaluated on fifteen fixed words. -/
theorem conventionalWordsDecode : Obligations.ConventionalWordsDecode :=
  ⟨rfl, rfl, rfl⟩

end Sys2Proof

/-! # `EXEC` transactions (R76, R90, R93) -/

namespace Sys2Proof.Machine

open Claims

/-- Settles O6: the `EXEC` arm of `step`. -/
theorem stepRunsTheDecodedInstruction : Obligations.StepRunsTheDecodedInstruction := by
  refine ⟨fun s w rest i more hpending hdecode => ?_,
    fun s nbits w => step_exec s s.pending (BitVec.ofNat 32 (w % 2 ^ nbits))⟩
  have hi : decodeWord w = i := by
    rw [decode] at hdecode
    simpa using hdecode
  obtain ⟨file, pending, reply⟩ := s
  subst hpending hi
  exact step_exec ⟨file, [], reply⟩ rest w

/-- Words that decode to one instruction take the same step. -/
theorem step_given_exec_congr {w u : Word} (h : decodeWord w = decodeWord u) (s : State) :
    step (given (.exec w) s) = step (given (.exec u) s) := by
  rw [given, step_exec, h, ← step_exec, ← given]

/-- A handler other than MVMVA's honours the function code, `sf` and `lm` at most (R93). -/
theorem and_honouredMask_of_ne_mvmva {w : Word} (h : w.extractLsb' 0 6 ≠ 0x12) :
    0x0008043F &&& honouredMask (decodeWord w) = honouredMask (decodeWord w) := by
  have htable : ∀ fn : BitVec 6, fn ≠ 0x12 →
      0x0008043F &&& honouredMask (instrOfCode fn.toFin false .rt .v0 .tr false) =
        honouredMask (instrOfCode fn.toFin false .rt .v0 .tr false) := by decide
  rw [honouredMask_decodeWord, fnField_eq rfl]
  exact htable _ h

/-- NCLIP, AVSZ3 and AVSZ4 honour the function code alone (R93). -/
theorem honouredMask_of_codeOnly {w : Word} (h : w.extractLsb' 0 6 ∈ [0x06#6, 0x2D#6, 0x2E#6]) :
    honouredMask (decodeWord w) = 0x0000003F := by
  have htable : ∀ fn ∈ [0x06#6, 0x2D#6, 0x2E#6],
      honouredMask (instrOfCode fn.toFin false .rt .v0 .tr false) = 0x0000003F := by decide
  rw [honouredMask_decodeWord, fnField_eq rfl]
  exact htable _ h

/-- Settles O3: in each clause the words agree on every bit that is honoured, so they decode to one
instruction. -/
theorem ignoredBitsDoNotMatter : Obligations.IgnoredBitsDoNotMatter := by
  refine fun w u s => ⟨fun h => step_given_exec_congr ?_ s,
    fun hfn h => step_given_exec_congr ?_ s, fun hfn h => step_given_exec_congr ?_ s⟩
  · exact decodeWord_congr (honouredMask_and_fields _) h
  · exact (decodeWord_congr (and_honouredMask_of_ne_mvmva hfn) h.symm).symm
  · have hmask : 0x0000003F &&& honouredMask (decodeWord w) = honouredMask (decodeWord w) := by
      rw [honouredMask_of_codeOnly hfn, BitVec.and_self]
    have hbits : u &&& 0x0000003F = w &&& 0x0000003F := by
      rw [← codeWord_code, ← codeWord_code, h]
    exact (decodeWord_congr hmask hbits).symm

end Sys2Proof.Machine

/-! # The range check of the wide accumulator (R113) -/

namespace Sys2Proof.Machine

open Claims

theorem wideValue_of_wrap {cfg : Config} (h : cfg.wideOverflow = .wrap) (v : Int) :
    wideValue cfg v = sext 44 v := by
  rw [wideValue, h]

theorem wideValue_of_clamp {cfg : Config} (h : cfg.wideOverflow = .clamp) (v : Int) :
    wideValue cfg v = clamp v (-2 ^ 43) (2 ^ 43 - 1) := by
  rw [wideValue, h]

/-- Settles O39: the wrapped value agrees modulo 2^44, the clamped one is held at the bound. -/
theorem wideCheckUnderBothReadings : Obligations.WideCheckUnderBothReadings := by
  refine fun cfg l v w => ⟨wideValue_mem cfg v, fun habove hbelow => ?_, fun hwrap => ?_,
    fun hclamp => ?_, fun b => flagHas_wideFlags⟩
  · exact wideValue_eq_self cfg (not_lt.mp hbelow) (not_lt.mp habove)
  · rw [wideValue_of_wrap hwrap]
    exact Int.ModEq.dvd (sext_emod v).symm
  · rw [wideValue_of_clamp hclamp, clamp_eq_max_min (by decide), sat]

end Sys2Proof.Machine

/-! # What a projection leaves in range (R130, R152) -/

namespace Sys2Proof.Machine

/-- Both coordinates are in the range `push_sxy` holds them in (R123). -/
def screenInRange (p : ScreenXY) : Prop :=
  -0x400 ≤ p.x.toInt ∧ p.x.toInt ≤ 0x3FF ∧ -0x400 ≤ p.y.toInt ∧ p.y.toInt ≤ 0x3FF

theorem screenHalf_mem (v : Int) :
    -0x400 ≤ (screenHalf v).toInt ∧ (screenHalf v).toInt ≤ 0x3FF := by
  rw [screenHalf_toInt]
  exact clamp_mem (by decide)

/-- What `set_ir0` stores, read back (R117). -/
theorem ir0Half_toInt (v : Int) :
    (BitVec.ofInt 16 (clamp v 0 0x1000)).toInt = clamp v 0 0x1000 := by
  obtain ⟨hlo, hhi⟩ := clamp_mem (v := v) (lo := 0) (hi := 0x1000) (by decide)
  exact ofInt16_toInt (by omega) (by omega)

section

variable (cfg : Config) (vec : Triple Half) (sh : Nat) (lm last : Bool) (f : RegFile)

/-- A vertex pushes a screen coordinate: the two younger entries move down. -/
theorem rtp_sxy0 : (rtp cfg vec sh lm last f).sxy0 = f.sxy1 := by
  rw [rtp, rtpProject_eq, rtpRotate_frame]

theorem rtp_sxy1 : (rtp cfg vec sh lm last f).sxy1 = f.sxy2 := by
  rw [rtp, rtpProject_eq, rtpRotate_frame]

theorem rtp_sxy2_inRange : screenInRange (rtp cfg vec sh lm last f).sxy2 := by
  rw [rtp, rtpProject_eq]
  obtain ⟨hx, hx'⟩ := screenHalf_mem _
  exact ⟨hx, hx', screenHalf_mem _⟩

/-- The last vertex stores IR0 held in its range (R117). -/
theorem rtp_last_ir0_mem : 0 ≤ (rtp cfg vec sh lm true f).ir0.toInt ∧
    (rtp cfg vec sh lm true f).ir0.toInt ≤ 0x1000 := by
  rw [rtp, rtpProject_eq, if_pos rfl, ir0Half_toInt]
  exact clamp_mem (by decide)

end

/-- Settles O36: each vertex pushes a coordinate in range, so the three of RTPT replace all that
stood in the FIFO, and the last vertex stores IR0. -/
theorem projectedValuesAreInRange : Obligations.ProjectedValuesAreInRange := by
  refine fun sf lm s => ⟨_, _, exec_rtps sf lm s, exec_rtpt sf lm s, ?_, ?_⟩
  · simp only [List.forall_mem_cons]
    exact ⟨rtp_last_ir0_mem .., rtp_last_ir0_mem .., by simp⟩
  · simp only [List.forall_mem_cons, rtp_sxy0, rtp_sxy1]
    exact ⟨rtp_sxy2_inRange .., rtp_sxy2_inRange .., rtp_sxy2_inRange .., rtp_sxy2_inRange ..,
      by simp⟩

end Sys2Proof.Machine

/-! # The reciprocal table (R125; UNR_TABLE, log entry 6) -/

namespace Sys2Proof.Machine

open Claims

set_option maxRecDepth 4000 in
theorem unrTable_eq_unrListing : unrTable = unrListing := by
  decide

theorem unrTable_length : unrTable.length = 257 := by
  rw [unrTable, List.length_map, List.length_range]

theorem unrEntry_le (i : Nat) : unrEntry i ≤ 0xFF := by
  have hdiv : 0x40000 / (i + 0x100) ≤ 0x40000 / 0x100 := Nat.div_le_div_left (by omega) (by decide)
  unfold unrEntry
  omega

/-- Each byte of the table is the generator's number. -/
theorem unrTable_getD_toNat {i : Nat} (hi : i ≤ 0x100) :
    (unrTable.getD i 0).toNat = unrEntry i := by
  have hbyte := unrEntry_le i
  have hget : unrTable[i]? = some (BitVec.ofNat 8 (unrEntry i)) := by
    rw [unrTable, List.getElem?_map, List.getElem?_range (by omega), Option.map_some]
  rw [List.getD_eq_getElem?_getD, hget, Option.getD_some, BitVec.toNat_ofNat]
  omega

/-- The generator over the integers, its difference held at 0. -/
theorem unrEntry_cast (i : Nat) :
    (unrEntry i : Int) = max 0 ((0x40000 / ((i : Int) + 0x100) + 1) / 2 - 0x101) := by
  have hdiv : ((0x40000 / (i + 0x100) : Nat) : Int) = 0x40000 / ((i : Int) + 0x100) :=
    Int.natCast_div ..
  unfold unrEntry
  omega

/-- Settles O40: the listing is the table, whose bytes are the generator's numbers. -/
theorem unrTableIsTheListing : Obligations.UnrTableIsTheListing := by
  unfold Obligations.UnrTableIsTheListing
  rw [← unrTable_eq_unrListing]
  exact ⟨rfl, unrTable_length, fun i hi => by rw [unrTable_getD_toNat hi, unrEntry_cast]⟩

end Sys2Proof.Machine

/-! # The divider (R124) -/

namespace Sys2Proof.Machine

open Claims

/-! Normalisation: the divisor's top bit is moved to bit 15 -/

theorem clz16_le (z : Nat) : clz16 z ≤ 15 := by
  unfold clz16
  omega

theorem normalised_mem {z : Nat} (hpos : 0 < z) (hz : z ≤ 0xFFFF) :
    0x8000 ≤ z * 2 ^ clz16 z ∧ z * 2 ^ clz16 z ≤ 0xFFFF := by
  have hlog : z.log2 ≤ 15 := Nat.le_of_lt_succ ((Nat.log2_lt hpos.ne').2 (by omega))
  have hlow : 2 ^ z.log2 ≤ z := Nat.log2_self_le hpos.ne'
  have hhigh : z < 2 ^ (z.log2 + 1) := Nat.lt_log2_self
  have hshift : z.log2 + clz16 z = 15 := by
    unfold clz16
    omega
  have hlow' : 2 ^ (z.log2 + clz16 z) ≤ z * 2 ^ clz16 z := by
    rw [Nat.pow_add]
    gcongr
  have hhigh' : z * 2 ^ clz16 z < 2 ^ (z.log2 + clz16 z + 1) := by
    rw [Nat.add_right_comm, Nat.pow_add]
    gcongr
  rw [hshift] at hlow' hhigh'
  omega

/-! The seed and its refinement -/

/-- The index of the table for a normalised divisor. -/
def seedIndex (d : Nat) : Nat := (d - 0x7FC0) / 128

/-- The first guess of the reciprocal, by index. -/
def seed (k : Nat) : Nat := (unrListing.getD k 0).toNat + 0x101

/-- One refinement of the guess `u` for the divisor `d`. -/
def refined (d u : Nat) : Nat := (0x80 + (0x2000080 - d * u) / 256 * u) / 256

/-- The divider's refinement reads the seed at the index and refines it once. -/
theorem refine_config (d : Nat) : refine config.unrTable d = refined d (seed (seedIndex d)) := by
  simp only [refine, config, unrTable_eq_unrListing, Nat.shiftRight_eq_div_pow, refined, seed,
    seedIndex, Nat.reducePow]

theorem seed_mem (k : Nat) : 0x101 ≤ seed k ∧ seed k ≤ 0x200 := by
  have hbyte := byte_toNat_le (unrListing.getD k 0)
  unfold seed
  omega

theorem seed_eq_unrEntry {k : Nat} (hk : k ≤ 0x100) : seed k = unrEntry k + 0x101 := by
  rw [seed, ← unrTable_eq_unrListing, unrTable_getD_toNat hk]

theorem refined_anti {d e : Nat} (hde : d ≤ e) (u : Nat) : refined e u ≤ refined d u := by
  unfold refined
  gcongr

/-- The largest normalised divisor with a given index. -/
def topDivisor (k : Nat) : Nat := min 0xFFFF (128 * k + 0x803F)

theorem seedIndex_le {d : Nat} (hhi : d ≤ 0xFFFF) : seedIndex d ≤ 0x100 := by
  unfold seedIndex
  omega

theorem le_topDivisor_seedIndex {d : Nat} (hhi : d ≤ 0xFFFF) : d ≤ topDivisor (seedIndex d) := by
  unfold topDivisor seedIndex
  omega

set_option maxRecDepth 4000 in
/-- The table's property: at the largest divisor of each of the 257 indices the middle value is not
negative and the reciprocal does not fall below its range. -/
theorem topDivisor_refined : ∀ k ≤ 0x100, topDivisor k * (unrEntry k + 0x101) ≤ 0x2000080 ∧
    0x10000 ≤ refined (topDivisor k) (unrEntry k + 0x101) := by
  decide

/-- Whatever the guess, a refinement does not exceed the range: the product of the guess and the
middle value is largest where the guess is half of the middle value's zero. -/
theorem refined_le {d u : Nat} (hd : 0x8000 ≤ d) (hu : 0x101 ≤ u) (hdu : d * u ≤ 0x2000080) :
    refined d u ≤ 0x20000 := by
  unfold refined
  generalize hm : (0x2000080 - d * u) / 256 = m
  have hprod : m * u ≤ 0x200007F := by
    rcases hd.eq_or_lt with rfl | hd
    · have hmid : m + 128 * u ≤ 0x20000 := by omega
      zify at hmid hu ⊢
      nlinarith [sq_nonneg ((u : Int) - 512)]
    · have hmid : 256 * m + 0x8001 * u ≤ 0x2000080 := by
        have : 0x8001 * u ≤ d * u := by gcongr; exact hd
        omega
      zify at hmid hu ⊢
      nlinarith [sq_nonneg ((u : Int) - 512)]
  omega

/-- The bounds R124 gives for the middle value's sign and for the reciprocal. -/
theorem refined_seed_mem {d : Nat} (hlo : 0x8000 ≤ d) (hhi : d ≤ 0xFFFF) :
    d * seed (seedIndex d) ≤ 0x2000080 ∧ 0x10000 ≤ refined d (seed (seedIndex d)) ∧
      refined d (seed (seedIndex d)) ≤ 0x20000 := by
  have htop := le_topDivisor_seedIndex hhi
  obtain ⟨hmid, hrec⟩ := topDivisor_refined _ (seedIndex_le hhi)
  rw [← seed_eq_unrEntry (seedIndex_le hhi)] at hmid hrec
  have hdu : d * seed (seedIndex d) ≤ 0x2000080 := (Nat.mul_le_mul_right _ htop).trans hmid
  exact ⟨hdu, hrec.trans (refined_anti htop _), refined_le hlo (seed_mem _).1 hdu⟩

/-! The quotient -/

theorem divideValue_le (cfg : Config) (h z : Nat) : divideValue cfg h z ≤ 0x1FFFF := by
  unfold divideValue
  split
  · exact le_rfl
  · exact min_le_left ..

theorem divideValue_of_overflow (cfg : Config) {h z : Nat} (hov : 2 * z ≤ h) :
    divideValue cfg h z = 0x1FFFF :=
  if_pos hov

theorem divideValue_of_lt {h z : Nat} (hlt : h < 2 * z) :
    divideValue config h z = min 0x1FFFF ((h * 2 ^ clz16 z *
      refined (z * 2 ^ clz16 z) (seed (seedIndex (z * 2 ^ clz16 z))) + 0x8000) / 65536) := by
  rw [divideValue, if_neg (Nat.not_le.2 hlt)]
  simp only [Nat.shiftLeft_eq, Nat.shiftRight_eq_div_pow, refine_config]

/-- Settles O41: the normalised divisor's index, its seed and the refined reciprocal are the values
the scheme names. -/
theorem dividerFollowsTheScheme : Obligations.DividerFollowsTheScheme := by
  refine fun h z _ hz => ⟨divideValue_le .., fun w b => flagHas_divideFlag,
    divideValue_of_overflow config, fun hlt => ?_⟩
  obtain ⟨hlo, hhi⟩ := normalised_mem (z := z) (by omega) hz
  obtain ⟨hulo, huhi⟩ := seed_mem (seedIndex (z * 2 ^ clz16 z))
  obtain ⟨hmid, hrlo, hrhi⟩ := refined_seed_mem hlo hhi
  exact ⟨clz16 z, _, _, _, _, clz16_le z, rfl, hlo, hhi, rfl, seedIndex_le hhi, rfl, hulo, huhi,
    rfl, hmid, hrlo, hrhi, divideValue_of_lt hlt⟩

end Sys2Proof.Machine

/-! # One projected vertex (R150, R151, R152) -/

namespace Sys2Proof.Machine

open Claims

/-! The engine's sums under `wrap` (R113, R126; MAC123_WIDE_OVERFLOW, log entry 3) -/

theorem asr_shiftOf (v : Int) (sf : Bool) : asr v (shiftOf sf) = scaled sf v := by
  cases sf with
  | false => exact Int.ediv_one v
  | true => rfl

/-- A value that agrees with `w` in its low 44 bits is stored as `w` would be. -/
theorem macWord_eq_low32 {v w : Int} (hmod : v % 2 ^ 44 = w % 2 ^ 44) (sf : Bool) :
    macWord config v (shiftOf sf) = low32 (scaled sf w) := by
  rw [macWord_congr hmod, macWord_shiftOf, asr_shiftOf, low32]

/-- The partial sums of a lane, as the engine forms them. -/
theorem laneSums_eq_partials (t : Int) (row vec : Triple Half) :
    [(laneSums config t row vec).l1, (laneSums config t row vec).l2,
      (laneSums config t row vec).l3] = partials t (row.l1.toInt * vec.l1.toInt)
        (row.l2.toInt * vec.l2.toInt) (row.l3.toInt * vec.l3.toInt) := by
  simp only [laneSums, partials, wideValue_config, sext_eq_bmod, low44]

/-- The checks on the way leave the low 44 bits of the exact sum. -/
theorem laneSums_l3_emod (t : Int) (row vec : Triple Half) :
    (laneSums config t row vec).l3 % 2 ^ 44 = (t + row.l1.toInt * vec.l1.toInt
      + row.l2.toInt * vec.l2.toInt + row.l3.toInt * vec.l3.toInt) % 2 ^ 44 := by
  simp only [laneSums, wideValue_config]
  rw [sext_add_sext_emod, add_assoc, sext_add_sext_emod, ← add_assoc]

/-- The conditions of three range checks a lane. -/
theorem wideCondition_sums (a : Lane → Triple Int) (b : FlagBit) :
    wideCondition (fun l => [(a l).l1, (a l).l2, (a l).l3]) b ↔
      ∃ l, wideRaises (a l).l1 l b ∨ wideRaises (a l).l2 l b ∨ wideRaises (a l).l3 l b := by
  refine exists_congr fun l => ?_
  simp only [List.exists_mem_cons_iff, List.not_mem_nil, false_and, exists_false, or_false,
    wideRaises]
  tauto

/-! The first half of a vertex: rotation and screen Z -/

section

variable (f : RegFile) (vec : Triple Half)

theorem rotatedSums_eq (l : Lane) : rotatedSums f vec l = [(rtpSums config f vec l).l1,
    (rtpSums config f vec l).l2, (rtpSums config f vec l).l3] :=
  (laneSums_eq_partials ..).symm

theorem rtpSums_l3_emod (l : Lane) :
    (rtpSums config f vec l).l3 % 2 ^ 44 = rotated f vec l % 2 ^ 44 :=
  laneSums_l3_emod ..

theorem rtpScreenZ_eq_screenZ : rtpScreenZ config f vec = screenZ f vec := by
  have hwide : sext 44 (rtpSums config f vec .l3).l3 = low44 (rotated f vec .l3) := by
    rw [low44, ← sext_eq_bmod, sext, sext, rtpSums_l3_emod]
  rw [rtpScreenZ, wideValue_config, hwide]
  rfl

theorem rtpRotate_mac_eq (sf lm : Bool) (l : Lane) :
    (rtpRotate config vec (shiftOf sf) lm f).mac.get l = low32 (scaled sf (rotated f vec l)) := by
  rw [rtpRotate_mac, macWord_eq_low32 (rtpSums_l3_emod f vec l)]

/-- The conditions of the rotation and the screen Z push, those of `vertexCondition` before the
divide; `g` is the file that holds the new MACs. -/
def rotateCondition (lm : Bool) (vec : Triple Half) (f g : RegFile) (b : FlagBit) : Prop :=
  wideCondition (rotatedSums f vec) b ∨
  (b = .ir1Sat ∧ outside (irMin lm) 0x7FFF g.mac.l1.toInt) ∨
  (b = .ir2Sat ∧ outside (irMin lm) 0x7FFF g.mac.l2.toInt) ∨
  (b = .ir3Sat ∧ outside (-0x8000) 0x7FFF (screenZ f vec)) ∨
  (b = .szOtzSat ∧ outside 0 0xFFFF (screenZ f vec))

theorem rtpRotate_cleared_flagSet (sh : Nat) (lm : Bool) (b : FlagBit) :
    (rtpRotate config vec sh lm (cleared f)).flagSet b = true ↔
      rotateCondition lm vec f (rtpRotate config vec sh lm (cleared f)) b := by
  have hwide := wideCondition_sums (rtpSums config f vec) b
  simp only [← rotatedSums_eq] at hwide
  have hmac := rtpRotate_mac config vec sh lm (cleared f)
  rw [rtpRotate_flagSet, cleared_flagSet, rotateCondition, hwide, ← rtpScreenZ_eq_screenZ,
    ← Triple.get_l1, hmac, ← Triple.get_l2, hmac]
  simp only [Bool.false_eq_true, false_or]
  rfl

end

/-! The second half of a vertex: screen coordinates and depth cue -/

theorem clamp_eq_sat {v least most : Int} (hle : least ≤ most) :
    clamp v least most = sat least most v :=
  clamp_eq_max_min hle

/-- The integer part of a screen sum fits in 32 bits: its signed reading is itself (R124, R152). -/
theorem sext_screenSum {q : Int} (hq : 0 ≤ q) (hq' : q ≤ 0x1FFFF) (ir : Half) (offset : Word) :
    sext 32 (asr (screenSum q ir offset) 16) = screenSum q ir offset / 65536 := by
  obtain ⟨hir, hir'⟩ := half_toInt_mem ir
  obtain ⟨hoff, hoff'⟩ := word_toInt_mem offset
  have hlo : -0x8000 * 0x1FFFF ≤ q * ir.toInt := by nlinarith
  have hhi : q * ir.toInt ≤ 0x7FFF * 0x1FFFF := by nlinarith
  have hsum : screenSum q ir offset = q * ir.toInt + offset.toInt := rfl
  have hasr : asr (screenSum q ir offset) 16 = screenSum q ir offset / 65536 := rfl
  rw [hasr]
  exact sext32_eq_self (by omega) (by omega)

section

variable (last : Bool) (r : RegFile)

/-- The quotient of a projected file is the one the second half divided out. -/
theorem quotient_rtpProject : quotient (rtpProject config last r) = rtpQuotient config r := by
  rw [quotient, rtpProject_eq]
  rfl

theorem screenX_rtpProject : screenX (rtpProject config last r) =
    screenSum (rtpQuotient config r) r.ir.l1 r.ofx := by
  rw [screenX, quotient_rtpProject, rtpProject_eq]
  rfl

theorem screenY_rtpProject : screenY (rtpProject config last r) =
    screenSum (rtpQuotient config r) r.ir.l2 r.ofy := by
  rw [screenY, quotient_rtpProject, rtpProject_eq]
  rfl

theorem depthCueSum_rtpProject : depthCueSum (rtpProject config last r) =
    depthSum (rtpQuotient config r) r := by
  rw [depthCueSum, quotient_rtpProject, rtpProject_eq]
  rfl

theorem sext_screenX : sext 32 (asr (screenSum (rtpQuotient config r) r.ir.l1 r.ofx) 16) =
    screenX (rtpProject config last r) / 65536 := by
  have hq := divideValue_le config r.h.toNat r.sz3.toNat
  rw [screenX_rtpProject, sext_screenSum (by omega) (by rw [rtpQuotient]; omega)]

theorem sext_screenY : sext 32 (asr (screenSum (rtpQuotient config r) r.ir.l2 r.ofy) 16) =
    screenY (rtpProject config last r) / 65536 := by
  have hq := divideValue_le config r.h.toNat r.sz3.toNat
  rw [screenY_rtpProject, sext_screenSum (by omega) (by rw [rtpQuotient]; omega)]

theorem rtpProject_sxy2 : (rtpProject config last r).sxy2 =
    ⟨screenHalf (screenX (rtpProject config last r) / 65536),
     screenHalf (screenY (rtpProject config last r) / 65536)⟩ := by
  rw [← sext_screenX, ← sext_screenY, rtpProject_eq]

/-- The conditions from the divide on, those of `vertexCondition` after the screen Z push. -/
def projectCondition (last : Bool) (g : RegFile) (b : FlagBit) : Prop :=
  (b = .divOvf ∧ 2 * g.sz3.toNat ≤ g.h.toNat) ∨
  mac0Condition (screenX g) b ∨ mac0Condition (screenY g) b ∨
  (b = .sxSat ∧ outside (-0x400) 0x3FF (screenX g / 65536)) ∨
  (b = .sySat ∧ outside (-0x400) 0x3FF (screenY g / 65536)) ∨
  (last = true ∧ (mac0Condition (depthCueSum g) b ∨
    (b = .ir0Sat ∧ outside 0 0x1000 (depthCueSum g / 4096))))

theorem rtpProject_flagSet_iff (b : FlagBit) : (rtpProject config last r).flagSet b = true ↔
    r.flagSet b = true ∨ projectCondition last (rtpProject config last r) b := by
  have hz : (rtpProject config last r).sz3 = r.sz3 := by rw [rtpProject_eq]
  have hh : (rtpProject config last r).h = r.h := by rw [rtpProject_eq]
  rw [rtpProject_flagSet, sext_screenX last, sext_screenY last, projectCondition, hz, hh,
    ← screenX_rtpProject last, ← screenY_rtpProject last, ← depthCueSum_rtpProject last]
  rfl

end

/-! A whole vertex -/

theorem vertexCondition_iff (lm last : Bool) (vec : Triple Half) (f g : RegFile) (b : FlagBit) :
    vertexCondition lm last vec f g b ↔
      rotateCondition lm vec f g b ∨ projectCondition last g b := by
  simp only [vertexCondition, rotateCondition, projectCondition, or_assoc]

/-- `g` is `f` but for the fields a projection writes (R150, R151). -/
def ProjectionWrites (f g : RegFile) : Prop :=
  g = { f with
    mac := g.mac, ir := g.ir, sz0 := g.sz0, sz1 := g.sz1, sz2 := g.sz2, sz3 := g.sz3
    sxy0 := g.sxy0, sxy1 := g.sxy1, sxy2 := g.sxy2, mac0 := g.mac0, ir0 := g.ir0, flag := g.flag }

theorem projectionWrites_cleared (f : RegFile) : ProjectionWrites f (cleared f) := rfl

theorem ProjectionWrites.trans {f g k : RegFile} (hfg : ProjectionWrites f g)
    (hgk : ProjectionWrites g k) : ProjectionWrites f k := by
  unfold ProjectionWrites at hgk ⊢
  rw [hfg] at hgk
  exact hgk

theorem projectionWrites_rtp (cfg : Config) (vec : Triple Half) (sh : Nat) (lm last : Bool)
    (f : RegFile) : ProjectionWrites f (rtp cfg vec sh lm last f) := by
  have hrotate : ProjectionWrites f (rtpRotate cfg vec sh lm f) := by
    unfold ProjectionWrites
    rw [rtpRotate_frame]
  refine hrotate.trans ?_
  unfold ProjectionWrites
  rw [rtp, rtpProject_eq]

theorem rtp_sz (cfg : Config) (vec : Triple Half) (sh : Nat) (lm last : Bool) (f : RegFile) :
    (rtp cfg vec sh lm last f).sz0 = f.sz1 ∧ (rtp cfg vec sh lm last f).sz1 = f.sz2 ∧
      (rtp cfg vec sh lm last f).sz2 = f.sz3 ∧
      (rtp cfg vec sh lm last f).sz3 = zHalf (rtpScreenZ cfg f vec) := by
  rw [rtp, rtpProject_eq]
  exact rtpRotate_sz cfg vec sh lm f

section

variable (sf lm : Bool) (vec : Triple Half) (f : RegFile)

theorem rtp_sxy2_toInt (sh : Nat) (last : Bool) :
    (rtp config vec sh lm last f).sxy2.x.toInt =
      sat (-0x400) 0x3FF (screenX (rtp config vec sh lm last f) / 65536) ∧
    (rtp config vec sh lm last f).sxy2.y.toInt =
      sat (-0x400) 0x3FF (screenY (rtp config vec sh lm last f) / 65536) := by
  have hsat (v : Int) : (screenHalf v).toInt = sat (-0x400) 0x3FF v := by
    rw [screenHalf_toInt, clamp_eq_sat (by decide)]
  simp only [rtp, rtpProject_sxy2, hsat, and_self]

/-- The last vertex stores the depth cue (R117, R152). -/
theorem rtp_last_depth (sh : Nat) :
    (rtp config vec sh lm true f).mac0 = low32 (depthCueSum (rtp config vec sh lm true f)) ∧
    (rtp config vec sh lm true f).ir0.toInt =
      sat 0 0x1000 (depthCueSum (rtp config vec sh lm true f) / 4096) := by
  rw [rtp, depthCueSum_rtpProject, rtpProject_eq, if_pos rfl, if_pos rfl, ir0Half_toInt,
    clamp_eq_sat (by decide)]
  exact ⟨rfl, rfl⟩

/-- Another vertex leaves MAC0 and IR0. -/
theorem rtp_not_last_depth (sh : Nat) :
    (rtp config vec sh lm false f).mac0 = f.mac0 ∧ (rtp config vec sh lm false f).ir0 = f.ir0 := by
  rw [rtp, rtpProject_eq, rtpRotate_frame]
  exact ⟨rfl, rfl⟩

theorem rtp_cleared_flagSet (sh : Nat) (last : Bool) (b : FlagBit) :
    (rtp config vec sh lm last (cleared f)).flagSet b = true ↔
      vertexCondition lm last vec f (rtp config vec sh lm last (cleared f)) b := by
  have hmac : (rtpProject config last (rtpRotate config vec sh lm (cleared f))).mac =
      (rtpRotate config vec sh lm (cleared f)).mac := by rw [rtpProject_eq]
  rw [vertexCondition_iff, rtp, rtpProject_flagSet_iff, rtpRotate_cleared_flagSet, rotateCondition,
    rotateCondition, hmac]

/-- One vertex from a file with FLAG cleared (R152). -/
theorem vertex_rtp (last : Bool) :
    Vertex sf lm last vec f (rtp config vec (shiftOf sf) lm last (cleared f)) where
  mac l := by
    rw [rtp, rtpProject_eq, rtpRotate_mac_eq]
    rfl
  ir := (irHeld_rtp config (shiftOf sf) lm (cleared f) (fun _ => False) vec last nofun).ir
  sz := by
    obtain ⟨h0, h1, h2, h3⟩ := rtp_sz config vec (shiftOf sf) lm last (cleared f)
    refine ⟨h0, h1, h2, ?_⟩
    rw [h3, zHalf_toNat, clamp_eq_sat (by decide), rtpScreenZ_eq_screenZ]
    rfl
  sxy := ⟨rtp_sxy0 .., rtp_sxy1 .., rtp_sxy2_toInt ..⟩
  depth hlast := by
    subst hlast
    exact rtp_last_depth ..
  noDepth hlast := by
    subst hlast
    exact rtp_not_last_depth ..
  flags := rtp_cleared_flagSet lm vec f (shiftOf sf) last
  frame := (projectionWrites_cleared f).trans (projectionWrites_rtp ..)

end

/-- An instruction that changes the register file alone, and there only what a projection writes. -/
theorem ProjectionWrites.projectionFrame {s : State} {g : RegFile}
    (h : ProjectionWrites s.file g) : projectionFrame s { s with file := g } :=
  congrArg (fun g => ({ s with file := g } : State)) h

/-- Settles O32: each of the one or three vertices writes the fields of the frame alone. -/
theorem projectionFrame : Obligations.ProjectionFrame := by
  intro sf lm s
  simp only [List.forall_mem_cons]
  have hv0 (last : Bool) := (projectionWrites_cleared s.file).trans
    (projectionWrites_rtp config s.file.v0 (shiftOf sf) lm last (cleared s.file))
  refine ⟨⟨_, exec_rtps .., (hv0 true).projectionFrame⟩, ⟨_, exec_rtpt .., ?_⟩, by simp⟩
  exact (((hv0 false).trans (projectionWrites_rtp ..)).trans
    (projectionWrites_rtp ..)).projectionFrame

/-- Settles O57: RTPS is one vertex, the last, from the file with FLAG cleared. -/
theorem rtpsResult : Obligations.RtpsResult :=
  fun sf lm s => ⟨_, exec_rtps sf lm s, vertex_rtp sf lm s.file.v0 s.file true, rfl, rfl⟩

/-- Two operations one after the other, each started with FLAG cleared instead, the conditions
joined. -/
theorem AddsFlags.from_cleared_two {op₁ op₂ : RegFile → RegFile} (h₁ : AddsFlags op₁)
    (h₂ : AddsFlags op₂) (a : RegFile) :
    op₂ (op₁ a) = { op₂ (cleared (op₁ (cleared a))) with
      flag := a.flag ||| (op₁ (cleared a)).flag |||
        (op₂ (cleared (op₁ (cleared a)))).flag } := by
  rw [(h₂.comp h₁).from_cleared a, h₂.from_cleared (op₁ (cleared a)), BitVec.or_assoc]

/-- Settles O58: no vertex reads FLAG and each only adds conditions to it, so three in a row are
three that each start with FLAG cleared, their conditions joined. -/
theorem rtptResult : Obligations.RtptResult := by
  intro sf lm s
  have hjoin := (addsFlags_rtp config s.file.v1 (shiftOf sf) lm false).from_cleared_two
    (addsFlags_rtp config s.file.v2 (shiftOf sf) lm true)
    (rtp config s.file.v0 (shiftOf sf) lm false (cleared s.file))
  exact ⟨_, _, _, _, exec_rtpt sf lm s, vertex_rtp sf lm _ _ false, vertex_rtp sf lm _ _ false,
    vertex_rtp sf lm _ _ true, hjoin, rfl, rfl⟩

end Sys2Proof.Machine

/-! # What the instructions that push a colour write (R160 to R167, R180 to R185) -/

namespace Sys2Proof.Machine

open Claims

/-- `g` is `f` but for what an operation over three lanes writes. -/
def LaneWrites (f g : RegFile) : Prop :=
  g = { f with mac := g.mac, ir := g.ir, flag := g.flag }

/-- `g` is `f` but for what an instruction that pushes a colour writes. -/
def ColourWrites (f g : RegFile) : Prop :=
  g = { f with
    mac := g.mac, ir := g.ir, rgb0 := g.rgb0, rgb1 := g.rgb1, rgb2 := g.rgb2, flag := g.flag }

theorem LaneEffect.laneWrites {mac : Lane → Word} {ir : Lane → Half}
    {cond : Lane → FlagBit → Prop} {f g : RegFile} (h : LaneEffect mac ir cond f g) :
    LaneWrites f g :=
  h.frame

theorem LaneWrites.colourWrites {f g : RegFile} (h : LaneWrites f g) : ColourWrites f g := by
  unfold ColourWrites
  rw [h]

theorem LaneWrites.trans {f g k : RegFile} (hfg : LaneWrites f g) (hgk : LaneWrites g k) :
    LaneWrites f k := by
  unfold LaneWrites at hgk ⊢
  rw [hfg] at hgk
  exact hgk

theorem laneWrites_cleared (f : RegFile) : LaneWrites f (cleared f) := rfl

theorem ColourWrites.trans {f g k : RegFile} (hfg : ColourWrites f g) (hgk : ColourWrites g k) :
    ColourWrites f k := by
  unfold ColourWrites at hgk ⊢
  rw [hfg] at hgk
  exact hgk

theorem ColourWrites.pushRgb {f g : RegFile} (h : ColourWrites f g) :
    ColourWrites f (pushRgb g) :=
  h.trans rfl

/-- An instruction that changes the register file alone, and there only what a colour push
writes. -/
theorem ColourWrites.colourFrame {s : State} {g : RegFile} (h : ColourWrites s.file g) :
    colourFrame s { s with file := g } :=
  congrArg (fun g => ({ s with file := g } : State)) h

section

variable (cfg : Config) (sh : Nat) (lm : Bool) (f : RegFile)

theorem laneWrites_transform (m : Mat3) (t : Option (Triple Word)) (vec : Triple Half) :
    LaneWrites f (transform cfg m t vec sh lm f) :=
  (transform_effect cfg m t vec sh lm f _ fun _ => rfl).laneWrites

theorem laneWrites_mvmva (mx : MatrixSel) (v : VectorSel) (cv : TransSel) :
    LaneWrites f (mvmva cfg sh mx v cv lm f) := by
  by_cases hcv : cv = .fc
  · rw [hcv, mvmva_fc]
    exact (transformFc_effect cfg _ _ _ sh lm f _ fun _ => rfl).laneWrites
  · rw [mvmva_of_ne lm hcv]
    exact laneWrites_transform ..

theorem laneWrites_interpolate (start : Triple Int) :
    LaneWrites f (interpolate cfg start sh lm f) :=
  (interpolate_effect cfg start sh lm f _ _ (fun _ => rfl) fun _ => rfl).laneWrites

theorem laneWrites_gpfLanes : LaneWrites f (eachLane (gpfLane cfg sh lm) f) :=
  (gpf_effect cfg sh lm f _ fun _ => rfl).laneWrites

theorem laneWrites_gplLanes : LaneWrites f (eachLane (gplLane cfg sh lm) f) :=
  (gpl_effect cfg sh lm f _ fun _ => rfl).laneWrites

theorem laneWrites_colourTint (kind : ColourKind) : LaneWrites f (colourTint cfg kind sh lm f) := by
  cases kind with
  | plain => rfl
  | colour => exact (storeAll_effect cfg (colorMul f) sh lm f).laneWrites
  | depth => exact laneWrites_interpolate cfg sh lm f (colorMul f)

theorem colourWrites_colourStage (kind : ColourKind) :
    ColourWrites f (colourStage cfg kind sh lm f) :=
  ((laneWrites_transform ..).colourWrites.trans (laneWrites_colourTint ..).colourWrites).pushRgb

theorem colourWrites_normalStage (vec : Triple Half) (kind : ColourKind) :
    ColourWrites f (normalStage cfg vec kind sh lm f) :=
  (laneWrites_transform ..).colourWrites.trans (colourWrites_colourStage ..)

theorem colourWrites_normalStage3 (kind : ColourKind) :
    ColourWrites f (normalStage3 cfg kind sh lm f) :=
  ((colourWrites_normalStage ..).trans (colourWrites_normalStage ..)).trans
    (colourWrites_normalStage ..)

theorem colourWrites_depthCue (c : Colour) : ColourWrites f (depthCue cfg c sh lm f) :=
  (laneWrites_interpolate ..).colourWrites.pushRgb

theorem colourWrites_depthCueOldest : ColourWrites f (depthCueOldest cfg sh lm f) :=
  colourWrites_depthCue ..

end

/-- A handler that starts from the file with FLAG cleared and writes what a colour push writes. -/
theorem exists_next_colourFrame {i : Instr} {s : State} {g : RegFile}
    (hexec : exec i s = .next { s with file := g }) (h : ColourWrites (cleared s.file) g) :
    ∃ t, exec i s = .next t ∧ Claims.colourFrame s t :=
  ⟨_, hexec, ((laneWrites_cleared s.file).colourWrites.trans h).colourFrame⟩

/-- Settles O33: each handler is a sequence of lane operations and colour pushes. -/
theorem colourFrame : Obligations.ColourFrame := by
  intro sf lm s
  simp only [List.forall_mem_cons]
  exact ⟨exists_next_colourFrame (exec_ncs ..) (colourWrites_normalStage ..),
    exists_next_colourFrame (exec_nct ..) (colourWrites_normalStage3 ..),
    exists_next_colourFrame (exec_nccs ..) (colourWrites_normalStage ..),
    exists_next_colourFrame (exec_ncct ..) (colourWrites_normalStage3 ..),
    exists_next_colourFrame (exec_ncds ..) (colourWrites_normalStage ..),
    exists_next_colourFrame (exec_ncdt ..) (colourWrites_normalStage3 ..),
    exists_next_colourFrame (exec_cc ..) (colourWrites_colourStage ..),
    exists_next_colourFrame (exec_cdp ..) (colourWrites_colourStage ..),
    exists_next_colourFrame (exec_dpcs ..) (colourWrites_depthCue ..),
    exists_next_colourFrame (exec_dpct ..) (((colourWrites_depthCueOldest ..).trans
      (colourWrites_depthCueOldest ..)).trans (colourWrites_depthCueOldest ..)),
    exists_next_colourFrame (exec_dcpl ..) (laneWrites_interpolate ..).colourWrites.pushRgb,
    exists_next_colourFrame (exec_intpl ..) (laneWrites_interpolate ..).colourWrites.pushRgb,
    exists_next_colourFrame (exec_gpf ..) (laneWrites_gpfLanes ..).colourWrites.pushRgb,
    exists_next_colourFrame (exec_gpl ..) (laneWrites_gplLanes ..).colourWrites.pushRgb,
    by simp⟩

end Sys2Proof.Machine

/-! # The lighting stages (R160 to R169) -/

namespace Sys2Proof.Machine

open Claims

/-! The stages as the instructions that compute them -/

theorem next_file_congr (s : State) {f g : RegFile} (h : f = g) :
    (.next { s with file := f } : Host.Outcome State Fault Refusal) =
      .next { s with file := g } := by
  rw [h]

/-- A colour stage begins as MVMVA with the light-colour matrix and the background colour (R168). -/
theorem colourStage_eq_mvmva (cfg : Config) (kind : ColourKind) (sh : Nat) (lm : Bool)
    (f : RegFile) : colourStage cfg kind sh lm f =
      pushRgb (colourTint cfg kind sh lm (mvmva cfg sh .lcm .ir .bk lm f)) := rfl

/-- A normal stage on V0 begins as MVMVA with the light matrix (R169). -/
theorem normalStage_v0_eq_mvmva (cfg : Config) (kind : ColourKind) (sh : Nat) (lm : Bool)
    (f : RegFile) : normalStage cfg f.v0 kind sh lm f =
      colourStage cfg kind sh lm (mvmva cfg sh .llm .v0 .none lm f) := rfl

/-- Settles O55: each handler is MVMVA's followed by the second instruction's, which only adds
conditions to FLAG. -/
theorem lightingStagesCompose : Obligations.LightingStagesCompose := by
  intro sf lm s
  have hstage (kind : ColourKind) := addsFlags_colourStage config kind (shiftOf sf) lm
  have hdepth : AddsFlags fun f => pushRgb (colourTint config .depth (shiftOf sf) lm f) :=
    addsFlags_pushRgb.comp fun f w => addsFlags_colourTint config .depth (shiftOf sf) lm f w
  have hlight := fun s => exec_mvmva sf lm s .llm .v0 .none
  have hcolour := fun s => exec_mvmva sf lm s .lcm .ir .bk
  have hcdp (s : State) := (exec_cdp sf lm s).trans (next_file_congr s (colourStage_eq_mvmva ..))
  have hnccs (s : State) := (exec_nccs sf lm s).trans
    (next_file_congr s (normalStage_v0_eq_mvmva config .colour (shiftOf sf) lm (cleared s.file)))
  have hncds (s : State) := (exec_ncds sf lm s).trans
    (next_file_congr s (normalStage_v0_eq_mvmva config .depth (shiftOf sf) lm (cleared s.file)))
  simp only [List.forall_mem_cons]
  exact ⟨exec_sequence hdepth hcolour (exec_dcpl sf lm) hcdp s,
    exec_sequence (hstage .colour) hlight (exec_cc sf lm) hnccs s,
    exec_sequence (hstage .depth) hlight (exec_cdp sf lm) hncds s, by simp⟩

/-! Three vertices -/

theorem normalStage_v0 (cfg : Config) (vec : Triple Half) (kind : ColourKind) (sh : Nat) (lm : Bool)
    (f : RegFile) : (normalStage cfg vec kind sh lm f).v0 = f.v0 :=
  (congrArg RegFile.v0 (inputPart_normalStage cfg sh lm f vec kind) :)

/-- Three stages in a row are three that each start with FLAG cleared, their conditions joined. -/
theorem normalStage3_cleared (cfg : Config) (kind : ColourKind) (sh : Nat) (lm : Bool)
    {f a b c : RegFile} (ha : normalStage cfg f.v0 kind sh lm (cleared f) = a)
    (hb : normalStage cfg f.v1 kind sh lm (cleared a) = b)
    (hc : normalStage cfg f.v2 kind sh lm (cleared b) = c) :
    normalStage3 cfg kind sh lm (cleared f) =
      { c with v0 := f.v0, flag := a.flag ||| b.flag ||| c.flag } := by
  have hjoin := (addsFlags_normalStage cfg f.v1 kind sh lm).from_cleared_two
    (addsFlags_normalStage cfg f.v2 kind sh lm) a
  have hv0 : f.v0 = c.v0 := by
    simp only [← hc, ← hb, ← ha, normalStage_v0, cleared_v0]
  rw [hb, hc] at hjoin
  rw [hv0, ← hjoin, ← ha]
  rfl

section

variable {single triple : Instr} {kind : ColourKind} {sh : Nat} {lm : Bool}
  (hsingle : ∀ s, exec single s =
    .next { s with file := normalStage config s.file.v0 kind sh lm (cleared s.file) })
include hsingle

/-- A single variant with another vector in V0 lights that vector and leaves V0. -/
theorem exec_single_withV0 (s : State) {v : Triple Half} {f g : RegFile}
    (h : normalStage config v kind sh lm (cleared f) = g) :
    exec single { s with file := withV0 v f } = .next { s with file := withV0 v g } := by
  subst h
  exact (hsingle _).trans (next_file_congr s (withV0_normalStage v config v kind sh lm (cleared f)))

/-- A triple variant is its single variant on V0, on V1 and on V2. -/
theorem exec_triple_of_single (htriple : ∀ s, exec triple s =
    .next { s with file := normalStage3 config kind sh lm (cleared s.file) }) (s : State) :
    ∃ a b c, exec single s = .next a ∧
      exec single { a with file := { a.file with v0 := s.file.v1 } } = .next b ∧
      exec single { b with file := { b.file with v0 := s.file.v2 } } = .next c ∧
      exec triple s = .next { c with file := { c.file with
        v0 := s.file.v0, flag := a.file.flag ||| b.file.flag ||| c.file.flag } } := by
  obtain ⟨a, ha⟩ : ∃ a, normalStage config s.file.v0 kind sh lm (cleared s.file) = a := ⟨_, rfl⟩
  obtain ⟨b, hb⟩ : ∃ b, normalStage config s.file.v1 kind sh lm (cleared a) = b := ⟨_, rfl⟩
  obtain ⟨c, hc⟩ : ∃ c, normalStage config s.file.v2 kind sh lm (cleared b) = c := ⟨_, rfl⟩
  exact ⟨_, _, _, (hsingle s).trans (next_file_congr s ha), (exec_single_withV0 hsingle s hb :),
    (exec_single_withV0 hsingle s hc :),
    (htriple s).trans (next_file_congr s (normalStage3_cleared config kind sh lm ha hb hc :))⟩

end

/-- Settles O56: the stages leave V0 and do not read it, so placing V1 and V2 there changes nothing
else, and each stage only adds conditions to FLAG. -/
theorem tripleLightingIsThreeSingles : Obligations.TripleLightingIsThreeSingles := by
  intro sf lm s
  simp only [List.forall_mem_cons]
  exact ⟨exec_triple_of_single (exec_ncs sf lm) (exec_nct sf lm) s,
    exec_triple_of_single (exec_nccs sf lm) (exec_ncct sf lm) s,
    exec_triple_of_single (exec_ncds sf lm) (exec_ncdt sf lm) s,
    by simp⟩

/-! The colour push after a lane operation -/

theorem LaneWrites.pushed {f g : RegFile} (h : LaneWrites f g) : Claims.pushed f (pushRgb g) := by
  have hsat (v : Int) : ((satRgb v).toNat : Int) = sat 0 255 v := by
    rw [satRgb_toNat, clamp_eq_sat (by decide)]
  rw [h]
  exact ⟨rfl, rfl, rfl, hsat _, hsat _, hsat _⟩

theorem pushRgb_flagSet_iff (g : RegFile) (b : FlagBit) :
    (pushRgb g).flagSet b = true ↔ g.flagSet b = true ∨ colourCondition (pushRgb g) b :=
  pushRgb_flagSet g b

/-- An operation that only adds conditions to FLAG records those it records from a clear FLAG. -/
theorem AddsFlags.flagSet_iff {op : RegFile → RegFile} (h : AddsFlags op) (f : RegFile)
    (b : FlagBit) :
    (op f).flagSet b = true ↔ f.flagSet b = true ∨ (op (cleared f)).flagSet b = true := by
  have hor := flagHas_or f.flag (op (cleared f)).flag b
  rw [h.from_cleared f, ← Bool.or_eq_true]
  exact iff_of_eq (congrArg (· = true) hor)

/-- Settles O54: the second transform only adds conditions to those of the first, and the push to
those of both. -/
theorem ncsResult : Obligations.NcsResult := by
  intro sf lm s
  have hflags := addsFlags_mvmva config (shiftOf sf) .lcm .ir .bk lm
  have ha := (laneWrites_cleared s.file).trans
    (laneWrites_mvmva config (shiftOf sf) lm _ .llm .v0 .none)
  generalize hlight : mvmva config (shiftOf sf) .llm .v0 .none lm (cleared s.file) = a at ha
  have hncs : normalStage config s.file.v0 .plain (shiftOf sf) lm (cleared s.file) =
      pushRgb (mvmva config (shiftOf sf) .lcm .ir .bk lm a) := by
    rw [← hlight]
    exact normalStage_v0_eq_mvmva config .plain (shiftOf sf) lm (cleared s.file)
  have hwrites := ha.trans (laneWrites_mvmva config (shiftOf sf) lm a .lcm .ir .bk)
  refine ⟨_, _, _, (exec_mvmva ..).trans (next_file_congr s hlight),
    exec_mvmva sf lm _ .lcm .ir .bk, (exec_ncs ..).trans (next_file_congr s hncs), ?_, ?_,
    hwrites.pushed, fun b => ?_, hwrites.colourWrites.pushRgb.colourFrame⟩
  · exact (congrArg RegFile.mac (hflags.from_cleared a) :)
  · exact (congrArg RegFile.ir (hflags.from_cleared a) :)
  · rw [pushRgb_flagSet_iff, hflags.flagSet_iff a b, or_assoc]

/-! The colour multiply -/

/-- A sum that fits the accumulator's 32 bits is stored exactly (R114). -/
theorem macWord_toInt_of_mem {v : Int} (hlo : -2 ^ 31 ≤ v) (hhi : v ≤ 2 ^ 31 - 1) (sf : Bool) :
    (macWord config v (shiftOf sf)).toInt = scaled sf v := by
  have hscaled : -2 ^ 31 ≤ scaled sf v ∧ scaled sf v ≤ 2 ^ 31 - 1 := by
    cases sf <;> simp only [scaled, Bool.false_eq_true, if_true, if_false] <;> omega
  rw [macWord_shiftOf, asr_shiftOf, ← sext32_eq_toInt, sext32_eq_self hscaled.1 hscaled.2]

theorem colorMul_get (f : RegFile) (l : Lane) :
    (colorMul f).get l = inputColour f l * (f.ir.get l).toInt * 16 := by
  cases l <;> rfl

theorem inputColour_mem (f : RegFile) (l : Lane) : 0 ≤ inputColour f l ∧ inputColour f l ≤ 255 := by
  have hbyte (c : Byte) : 0 ≤ (c.toNat : Int) ∧ (c.toNat : Int) ≤ 255 := by
    have := byte_toNat_le c
    omega
  cases l <;> exact hbyte _

theorem colorMul_mem (f : RegFile) (l : Lane) :
    -2 ^ 27 ≤ (colorMul f).get l ∧ (colorMul f).get l ≤ 2 ^ 27 := by
  obtain ⟨hc, hc'⟩ := inputColour_mem f l
  obtain ⟨hir, hir'⟩ := half_toInt_mem (f.ir.get l)
  rw [colorMul_get]
  constructor <;> nlinarith

/-- The colour multiply over its lanes (R129, R168). -/
theorem colourMultiply_effect (cfg : Config) (sh : Nat) (lm : Bool) (f : RegFile) :
    LaneEffect (fun l => macWord cfg ((colorMul f).get l) sh)
      (fun l => irHalf (macWord cfg ((colorMul f).get l) sh).toInt lm)
      (fun l b => wideRaises ((colorMul f).get l) l b ∨
        irRaises (macWord cfg ((colorMul f).get l) sh).toInt lm l b)
      f (colourTint cfg .colour sh lm f) :=
  storeAll_effect cfg (colorMul f) sh lm f

/-- The products fit, so each MAC is the exact shifted product. -/
theorem colourMultiply_mac_toInt (sf lm : Bool) (f : RegFile) (l : Lane) :
    ((colourTint config .colour (shiftOf sf) lm f).mac.get l).toInt =
      scaled sf (inputColour f l * (f.ir.get l).toInt * 16) := by
  obtain ⟨hlo, hhi⟩ := colorMul_mem f l
  rw [(colourMultiply_effect config (shiftOf sf) lm f).mac,
    macWord_toInt_of_mem (by omega) (by omega), colorMul_get]

/-- Stores of values in the 44-bit range and a push record the conditions of IR and of the colour
alone. -/
theorem LaneEffect.pushRgb_flagSet {m : Lane → Word} {ir : Lane → Half} {lm : Bool}
    {v : Lane → Int} {f g : RegFile}
    (h : LaneEffect m ir (fun l b => wideRaises (v l) l b ∨ irRaises (m l).toInt lm l b) f g)
    (hv : ∀ l, -2 ^ 43 ≤ v l ∧ v l ≤ 2 ^ 43 - 1) (b : FlagBit) :
    (pushRgb g).flagSet b = true ↔
      f.flagSet b = true ∨ irCondition lm (pushRgb g) b ∨ colourCondition (pushRgb g) b := by
  rw [pushRgb_flagSet_iff, h.flag, or_assoc]
  refine or_congr_right (or_congr_left (exists_congr fun l => ?_))
  rw [or_iff_right (not_wideRaises (hv l).1 (hv l).2 l b), ← h.mac]
  rfl

theorem LaneWrites.inputColour {f g : RegFile} (h : LaneWrites f g) (l : Lane) :
    Claims.inputColour g l = Claims.inputColour f l := by
  rw [h]
  cases l <;> rfl

/-- Settles O53: the transform leaves the input colour, and the products fit the accumulator. -/
theorem ccResult : Obligations.CcResult := by
  intro sf lm s
  have ha := (laneWrites_cleared s.file).trans
    (laneWrites_mvmva config (shiftOf sf) lm _ .lcm .ir .bk)
  generalize hmvmva : mvmva config (shiftOf sf) .lcm .ir .bk lm (cleared s.file) = a at ha
  have hcc : colourStage config .colour (shiftOf sf) lm (cleared s.file) =
      pushRgb (colourTint config .colour (shiftOf sf) lm a) := by
    rw [colourStage_eq_mvmva, hmvmva]
  have hmul := colourMultiply_effect config (shiftOf sf) lm a
  have hwrites := ha.trans hmul.laneWrites
  refine ⟨_, _, (exec_mvmva ..).trans (next_file_congr s hmvmva),
    (exec_cc ..).trans (next_file_congr s hcc), fun l => ?_,
    (irHeld_pushRgb (hmul.irHeld (fun _ _ => .inr) fun _ => False)).ir, hwrites.pushed,
    hmul.pushRgb_flagSet fun l => ?_, hwrites.colourWrites.pushRgb.colourFrame⟩
  · rw [← ha.inputColour]
    exact colourMultiply_mac_toInt sf lm a l
  · obtain ⟨hlo, hhi⟩ := colorMul_mem a l
    omega

end Sys2Proof.Machine

/-! # Depth cue and interpolation (R180 to R186) -/

namespace Sys2Proof.Machine

open Claims

/-! Three stores and the push, from a file with FLAG cleared -/

theorem cleared_flagSet_or (f : RegFile) (b : FlagBit) (p : Prop) :
    ((cleared f).flagSet b = true ∨ p) ↔ p :=
  or_iff_right (by simp [cleared_flagSet])

/-- The conditions of one range check a lane. -/
theorem wideCondition_single (v : Lane → Int) (b : FlagBit) :
    wideCondition (fun l => [v l]) b ↔ ∃ l, wideRaises (v l) l b := by
  simp only [wideCondition, wideRaises, List.mem_singleton, exists_eq_left, gt_iff_lt]

/-- The conditions of an operation may be stated in any equivalent way. -/
theorem LaneEffect.congr_cond {m : Lane → Word} {ir : Lane → Half}
    {c₁ c₂ : Lane → FlagBit → Prop} {f g : RegFile} (h : LaneEffect m ir c₁ f g)
    (hcond : ∀ l b, c₁ l b ↔ c₂ l b) : LaneEffect m ir c₂ f g where
  mac := h.mac
  ir := h.ir
  flag b := (h.flag b).trans (or_congr_right (exists_congr fun l => hcond l b))
  frame := h.frame

/-- From a clear FLAG, a lane operation whose last store is `set_ir(i, MACi, lm)` and a push record
its other conditions, those of IR and those of the colour. -/
theorem LaneEffect.pushRgb_flagSet_of_cleared {m : Lane → Word} {ir : Lane → Half} {lm : Bool}
    {cond : Lane → FlagBit → Prop} {f g : RegFile}
    (h : LaneEffect m ir (fun l b => cond l b ∨ irRaises (m l).toInt lm l b) (cleared f) g)
    (b : FlagBit) :
    (pushRgb g).flagSet b = true ↔
      (∃ l, cond l b) ∨ irCondition lm (pushRgb g) b ∨ colourCondition (pushRgb g) b := by
  have hir : (∃ l, irRaises (m l).toInt lm l b) ↔ irCondition lm (pushRgb g) b := by
    simp only [← h.mac]
    rfl
  rw [pushRgb_flagSet_iff, h.flag, cleared_flagSet_or, exists_or, hir, or_assoc]

/-! GPF and GPL -/

/-- Settles O49: the products fit the accumulator, so no range check fires. -/
theorem gpfResult : Obligations.GpfResult := by
  intro sf lm s
  have heffect := gpf_effect config (shiftOf sf) lm (cleared s.file)
    (fun l => (s.file.ir.get l).toInt * s.file.ir0.toInt) fun _ => rfl
  have hwrites := (laneWrites_cleared s.file).trans heffect.laneWrites
  have hmem (l : Lane) := half_mul_mem (s.file.ir.get l) s.file.ir0
  refine ⟨_, exec_gpf sf lm s, fun l => ?_,
    (irHeld_pushRgb (irHeld_gpfLanes _ _ _ _ fun _ => False)).ir, hwrites.pushed, fun b => ?_,
    hwrites.colourWrites.pushRgb.colourFrame⟩
  · obtain ⟨hlo, hhi⟩ := hmem l
    rw [pushRgb_mac, heffect.mac, macWord_toInt_of_mem (by omega) (by omega)]
  · rw [heffect.pushRgb_flagSet (fun l => by have := hmem l; omega), cleared_flagSet_or]

/-- The value a lane of GPL stores (R185). -/
theorem shl_mac_add_eq_baseSum (sf : Bool) (f : RegFile) (l : Lane) :
    shl (f.mac.get l).toInt (shiftOf sf) + (f.ir.get l).toInt * f.ir0.toInt = baseSum sf f l := by
  cases sf <;> rfl

/-- Settles O50: each lane stores its own sum, which the range check may find outside 44 bits. -/
theorem gplResult : Obligations.GplResult := by
  intro sf lm s
  have heffect := gpl_effect config (shiftOf sf) lm (cleared s.file) (baseSum sf s.file)
    (shl_mac_add_eq_baseSum sf s.file)
  have hwrites := (laneWrites_cleared s.file).trans heffect.laneWrites
  refine ⟨_, exec_gpl sf lm s, fun l => ?_,
    (irHeld_pushRgb (irHeld_gplLanes _ _ _ _ fun _ => False)).ir, hwrites.pushed, fun b => ?_,
    hwrites.colourWrites.pushRgb.colourFrame⟩
  · rw [pushRgb_mac, heffect.mac, macWord_eq_low32 rfl]
  · rw [heffect.pushRgb_flagSet_of_cleared, wideCondition_single]

/-! Interpolation toward the far colour -/

theorem irMin_false : irMin false = -0x8000 := rfl

/-- The second pass fits the accumulator when the start value is that of a colour or of IR. -/
theorem blended_mem (sf : Bool) (f : RegFile) (start : RegFile → Lane → Int) (l : Lane)
    (hstart : -2 ^ 27 ≤ start f l ∧ start f l ≤ 2 ^ 27) :
    -2 ^ 31 ≤ blended sf f start l ∧ blended sf f start l ≤ 2 ^ 31 - 1 := by
  have hmul := half_mul_mem (irHalf (firstMac sf f start l) false) f.ir0
  rw [irHalf_toInt_eq_sat, irMin_false] at hmul
  rw [blended]
  omega

/-- The two passes in integers: the range check of the first, its store into IR with `lm` 0, and the
last store; the range check of the second never fires. -/
theorem interpolate_effect_blended (sf lm : Bool) (f : RegFile) (init : Triple Int)
    (start : RegFile → Lane → Int) (hinit : ∀ l, init.get l = start f l)
    (hmem : ∀ l, -2 ^ 27 ≤ start f l ∧ start f l ≤ 2 ^ 27) :
    LaneEffect (fun l => macWord config (blended sf f start l) (shiftOf sf))
      (fun l => irHalf (macWord config (blended sf f start l) (shiftOf sf)).toInt lm)
      (fun l b => (wideRaises (farDifference f start l) l b ∨
          irRaises (firstMac sf f start l) false l b) ∨
        irRaises (macWord config (blended sf f start l) (shiftOf sf)).toInt lm l b)
      (cleared f) (interpolate config init (shiftOf sf) lm (cleared f)) := by
  have hmac (l : Lane) : (macWord config (farDifference f start l) (shiftOf sf)).toInt =
      firstMac sf f start l := by rw [macWord_eq_low32 rfl, firstMac]
  refine (interpolate_effect config init (shiftOf sf) lm (cleared f) (farDifference f start)
    (blended sf f start) (fun l => ?_) fun l => ?_).congr_cond fun l b => ?_
  · rw [hinit]
    rfl
  · rw [hmac, irHalf_toInt_eq_sat, irMin_false, hinit, blended, cleared_ir0]
  · obtain ⟨hlo, hhi⟩ := blended_mem sf f start l (hmem l)
    have hwide := not_wideRaises (v := blended sf f start l) (by omega) (by omega) l b
    rw [hmac, or_iff_right hwide]

/-- An instruction whose handler is `interpolate` and a push. -/
theorem interpolates_of_exec {i : Instr} {s : State} {sf lm : Bool} {init : Triple Int}
    {start : RegFile → Lane → Int}
    (hexec : exec i s = .next { s with
      file := pushRgb (interpolate config init (shiftOf sf) lm (cleared s.file)) })
    (hinit : ∀ l, init.get l = start s.file l)
    (hmem : ∀ l, -2 ^ 27 ≤ start s.file l ∧ start s.file l ≤ 2 ^ 27) :
    interpolates sf lm start i s := by
  have heffect := interpolate_effect_blended sf lm s.file init start hinit hmem
  have hwrites := (laneWrites_cleared s.file).trans heffect.laneWrites
  refine ⟨_, hexec, fun l => ?_,
    (irHeld_pushRgb (irHeld_interpolate _ _ _ _ (fun _ => False) _)).ir, hwrites.pushed,
    fun b => ?_, hwrites.colourWrites.pushRgb.colourFrame⟩
  · obtain ⟨hlo, hhi⟩ := blended_mem sf s.file start l (hmem l)
    rw [pushRgb_mac, heffect.mac, macWord_toInt_of_mem hlo hhi]
  · rw [heffect.pushRgb_flagSet_of_cleared, exists_or, wideCondition_single, or_assoc]
    rfl

/-- Settles O51: the three differ in the start value alone, and each start value is small enough for
the second pass to be exact. -/
theorem interpolationResults : Obligations.InterpolationResults := by
  intro sf lm s
  refine ⟨interpolates_of_exec (exec_dpcs sf lm s) (fun l => ?_) fun l => ?_,
    interpolates_of_exec (exec_dcpl sf lm s) (colorMul_get s.file) fun l => ?_,
    interpolates_of_exec (exec_intpl sf lm s) (fun l => ?_) fun l => ?_⟩
  · cases l <;> rfl
  · have := inputColour_mem s.file l
    omega
  · rw [← colorMul_get]
    exact colorMul_mem s.file l
  · cases l <;> rfl
  · have := half_toInt_mem (s.file.ir.get l)
    omega

/-! DPCT -/

theorem depthCueOldest_rgbc (cfg : Config) (sh : Nat) (lm : Bool) (f : RegFile) :
    (depthCueOldest cfg sh lm f).rgbc = f.rgbc :=
  (congrArg RegFile.rgbc (inputPart_depthCueOldest cfg sh lm f) :)

/-- DPCS on the oldest entry of the colour FIFO, put into RGBC under the code byte it holds, is one
iteration of DPCT (R181, R186). -/
theorem exec_dpcs_oldest (sf lm : Bool) (s : State) {f g : RegFile} {code : Byte}
    (hg : depthCueOldest config (shiftOf sf) lm (cleared f) = g) (hcode : f.rgbc.code = code) :
    exec (.dpcs sf lm) { s with file := { f with rgbc := { f.rgb0 with code := code } } } =
      .next { s with file := withTint f.rgb0.r f.rgb0.g f.rgb0.b g } := by
  subst hg hcode
  exact (exec_dpcs ..).trans (next_file_congr s (withTint_depthCue f.rgb0.r f.rgb0.g f.rgb0.b
    config f.rgb0 (shiftOf sf) lm (cleared f)))

/-- Three iterations in a row are three that each start with FLAG cleared, their conditions
joined. -/
theorem depthCueOldest_three (cfg : Config) (sh : Nat) (lm : Bool) {f a b c : RegFile}
    (ha : depthCueOldest cfg sh lm (cleared f) = a)
    (hb : depthCueOldest cfg sh lm (cleared a) = b)
    (hc : depthCueOldest cfg sh lm (cleared b) = c) :
    depthCueOldest cfg sh lm (depthCueOldest cfg sh lm (depthCueOldest cfg sh lm (cleared f))) =
      { c with rgbc := f.rgbc, flag := a.flag ||| b.flag ||| c.flag } := by
  have hadds := addsFlags_depthCueOldest cfg sh lm
  have hjoin := hadds.from_cleared_two hadds a
  have hrgbc : f.rgbc = c.rgbc := by
    simp only [← hc, ← hb, ← ha, depthCueOldest_rgbc, cleared_rgbc]
  rw [hb, hc] at hjoin
  rw [ha, hjoin, hrgbc]

/-- Settles O52: an iteration reads nothing of RGBC but its code byte and leaves RGBC, and it only
adds conditions to FLAG. -/
theorem dpctIsThreeDepthCues : Obligations.DpctIsThreeDepthCues := by
  intro sf lm s
  obtain ⟨a, ha⟩ : ∃ a, depthCueOldest config (shiftOf sf) lm (cleared s.file) = a := ⟨_, rfl⟩
  obtain ⟨b, hb⟩ : ∃ b, depthCueOldest config (shiftOf sf) lm (cleared a) = b := ⟨_, rfl⟩
  obtain ⟨c, hc⟩ : ∃ c, depthCueOldest config (shiftOf sf) lm (cleared b) = c := ⟨_, rfl⟩
  have hcodeA : a.rgbc.code = s.file.rgbc.code := by rw [← ha, depthCueOldest_rgbc, cleared_rgbc]
  have hcodeB : b.rgbc.code = s.file.rgbc.code := by
    rw [← hb, depthCueOldest_rgbc, cleared_rgbc, hcodeA]
  exact ⟨_, _, _, _,
    (exec_dpct sf lm s).trans (next_file_congr s (depthCueOldest_three config _ lm ha hb hc)),
    exec_dpcs_oldest sf lm s ha rfl, (exec_dpcs_oldest sf lm s hb hcodeA :),
    (exec_dpcs_oldest sf lm s hc hcodeB :), rfl⟩

end Sys2Proof.Machine

/-! # Geometry helpers (R200 to R204) -/

namespace Sys2Proof.Machine

open Claims

/-! MAC0 and OTZ, from a file with FLAG cleared -/

/-- `set_mac0` records its own conditions alone (R115). -/
theorem setMac0_cleared_flagSet (v : Int) (f : RegFile) (b : FlagBit) :
    (setMac0 v (cleared f)).flagSet b = true ↔ mac0Condition v b :=
  flagHas_mac0Flags.trans (cleared_flagSet_or f b _)

/-- The end of AVSZ3 and AVSZ4 records the conditions of MAC0 and of OTZ (R115, R122). -/
theorem storeAverage_cleared_flagSet (r : Int) (f : RegFile) (b : FlagBit) :
    (storeAverage r (cleared f)).flagSet b = true ↔
      mac0Condition r b ∨ (b = .szOtzSat ∧ outside 0 0xFFFF (r / 4096)) :=
  flagHas_zFlags.trans (or_congr_left (setMac0_cleared_flagSet r f b))

theorem storeAverage_otz_toNat (r : Int) (f : RegFile) :
    ((storeAverage r f).otz.toNat : Int) = sat 0 0xFFFF (r / 4096) :=
  (zHalf_toNat _).trans (clamp_eq_sat (by decide))

/-! NCLIP -/

/-- The six-term sum is the product form: the signed area spanned by the edges from the first point
(R200). -/
theorem nclipSum_eq_edges (p0 p1 p2 : ScreenXY) :
    nclipSum p0 p1 p2 =
      (p1.x.toInt - p0.x.toInt) * (p2.y.toInt - p0.y.toInt)
        - (p2.x.toInt - p0.x.toInt) * (p1.y.toInt - p0.y.toInt) := by
  rw [nclipSum]
  ring

theorem nclipSum_swap (p0 p1 p2 : ScreenXY) : nclipSum p0 p2 p1 = -nclipSum p0 p1 p2 := by
  rw [nclipSum_eq_edges, nclipSum_eq_edges]
  ring

theorem half_sub_abs_le (x y : Half) : |x.toInt - y.toInt| ≤ 0xFFFF := by
  obtain ⟨hx, hx'⟩ := half_toInt_mem x
  obtain ⟨hy, hy'⟩ := half_toInt_mem y
  exact abs_le.mpr ⟨by omega, by omega⟩

/-- A product of two differences of signed 16-bit fields is less than 2^32. -/
theorem half_sub_mul_abs_le (x y z w : Half) :
    |(x.toInt - y.toInt) * (z.toInt - w.toInt)| ≤ 0xFFFF * 0xFFFF := by
  rw [abs_mul]
  exact mul_le_mul (half_sub_abs_le x y) (half_sub_abs_le z w) (abs_nonneg _) (by decide)

theorem nclipSum_mem (p0 p1 p2 : ScreenXY) :
    -2 ^ 33 < nclipSum p0 p1 p2 ∧ nclipSum p0 p1 p2 < 2 ^ 33 := by
  obtain ⟨ha, ha'⟩ := abs_le.mp (half_sub_mul_abs_le p1.x p0.x p2.y p0.y)
  obtain ⟨hb, hb'⟩ := abs_le.mp (half_sub_mul_abs_le p2.x p0.x p1.y p0.y)
  rw [nclipSum_eq_edges]
  omega

/-- Settles O42: the sum is the area spanned by two edges, which changes sign when they change
places. -/
theorem nclipResult : Obligations.NclipResult := by
  refine ⟨fun w hw => decodeWord_of_code hw, fun s => ?_, fun s => ?_⟩
  · obtain ⟨hlo, hhi⟩ := nclipSum_mem s.file.sxy0 s.file.sxy1 s.file.sxy2
    exact ⟨_, nclipSum s.file.sxy0 s.file.sxy1 s.file.sxy2, exec_nclip s, rfl,
      nclipSum_eq_edges .., hlo, hhi, rfl, setMac0_cleared_flagSet _ _, rfl⟩
  · refine ⟨_, _, exec_nclip s, exec_nclip _, ?_⟩
    rw [setMac0_mac0, setMac0_mac0, nclipSum_swap, BitVec.ofInt_neg]

/-! AVSZ3 and AVSZ4 -/

/-- Settles O43: both handlers are `storeAverage` of their exact product. -/
theorem averageZResult : Obligations.AverageZResult := by
  intro s p hp
  have hexec : exec p.1 s = .next { s with file := storeAverage p.2 (cleared s.file) } := by
    revert p
    simp only [List.forall_mem_cons]
    exact ⟨exec_avsz3 s, exec_avsz4 s, by simp⟩
  exact ⟨_, hexec, rfl, storeAverage_otz_toNat p.2 _, storeAverage_cleared_flagSet p.2 _, rfl⟩

/-! Three stores of values that fit the accumulator: SQR and OP -/

/-- An instruction that changes the register file alone, and there only what a lane operation
writes. -/
theorem LaneWrites.laneFrame {s : State} {g : RegFile} (h : LaneWrites s.file g) :
    laneFrame s { s with file := g } :=
  congrArg (fun g => ({ s with file := g } : State)) h

section

variable {f g : RegFile} {v : Lane → Int} {sf lm : Bool}
  (h : LaneEffect (fun l => macWord config (v l) (shiftOf sf))
    (fun l => irHalf (macWord config (v l) (shiftOf sf)).toInt lm)
    (fun l b => wideRaises (v l) l b ∨ irRaises (macWord config (v l) (shiftOf sf)).toInt lm l b)
    (cleared f) g)
  (hv : ∀ l, -2 ^ 31 ≤ v l ∧ v l ≤ 2 ^ 31 - 1)
include h hv

/-- Each MAC is the exact shifted value (R114). -/
theorem LaneEffect.mac_toInt_of_mem (l : Lane) : (g.mac.get l).toInt = scaled sf (v l) := by
  rw [h.mac, macWord_toInt_of_mem (hv l).1 (hv l).2]

/-- The range check never fires, so the conditions are those of IR alone (R131). -/
theorem LaneEffect.flagSet_of_mem (b : FlagBit) : g.flagSet b = true ↔ irCondition lm g b := by
  rw [h.flag, cleared_flagSet_or]
  refine exists_congr fun l => ?_
  obtain ⟨hlo, hhi⟩ := hv l
  rw [or_iff_right (not_wideRaises (by omega) (by omega) l b), ← h.mac]
  rfl

end

/-! SQR -/

theorem irMin_nonpos (lm : Bool) : irMin lm ≤ 0 := (irLow_mem lm).2

/-- The lower bound of IR plays no part for a value that is not negative. -/
theorem sat_irMin_of_nonneg {v : Int} (hv : 0 ≤ v) (lm : Bool) :
    sat (irMin lm) 0x7FFF v = min 0x7FFF v := by
  have := irMin_nonpos lm
  rw [sat]
  omega

theorem outside_irMin_of_nonneg {v : Int} (hv : 0 ≤ v) (lm : Bool) :
    outside (irMin lm) 0x7FFF v ↔ 0x7FFF < v := by
  have := irMin_nonpos lm
  omega

theorem scaled_nonneg {v : Int} (hv : 0 ≤ v) (sf : Bool) : 0 ≤ scaled sf v := by
  rw [scaled]
  split <;> omega

/-- Settles O44: the squares fit the accumulator and are not negative, so `lm` plays no part. -/
theorem sqrResult : Obligations.SqrResult := by
  intro sf lm s
  have heffect := sqr_effect config (shiftOf sf) lm (cleared s.file)
    (fun l => (s.file.ir.get l).toInt * (s.file.ir.get l).toInt) fun _ => rfl
  have hmem (l : Lane) : -2 ^ 31 ≤ (s.file.ir.get l).toInt * (s.file.ir.get l).toInt ∧
      (s.file.ir.get l).toInt * (s.file.ir.get l).toInt ≤ 2 ^ 31 - 1 := by
    have := half_mul_mem (s.file.ir.get l) (s.file.ir.get l)
    omega
  have hmac := heffect.mac_toInt_of_mem hmem
  have hnonneg (l : Lane) := (scaled_nonneg (mul_self_nonneg (s.file.ir.get l).toInt) sf).trans_eq
    (hmac l).symm
  refine ⟨_, exec_sqr sf lm s, fun l => ⟨hmac l, ?_⟩, fun b => ?_,
    ((laneWrites_cleared s.file).trans heffect.laneWrites).laneFrame⟩
  · rw [(irHeld_sqrLanes _ _ _ _ fun _ => False).ir l, sat_irMin_of_nonneg (hnonneg l)]
  · rw [heffect.flagSet_of_mem hmem]
    exact exists_congr fun l => and_congr_right fun _ => outside_irMin_of_nonneg (hnonneg l) lm

/-! OP -/

/-- A product of signed 16-bit fields is above -2^30, which the difference of two needs to fit. -/
theorem half_mul_gt (x y : Half) : -2 ^ 30 < x.toInt * y.toInt := by
  obtain ⟨hx, hx'⟩ := half_toInt_mem x
  obtain ⟨hy, hy'⟩ := half_toInt_mem y
  nlinarith

theorem half_mul_sub_mul_mem (x y z w : Half) :
    -2 ^ 31 ≤ x.toInt * y.toInt - z.toInt * w.toInt ∧
      x.toInt * y.toInt - z.toInt * w.toInt ≤ 2 ^ 31 - 1 := by
  have hxy := half_mul_mem x y
  have hzw := half_mul_mem z w
  have hgt := half_mul_gt z w
  omega

theorem crossProduct_mem (d a : Triple Half) (l : Lane) :
    -2 ^ 31 ≤ (crossProduct d a).get l ∧ (crossProduct d a).get l ≤ 2 ^ 31 - 1 := by
  cases l <;> exact half_mul_sub_mul_mem ..

/-- Settles O45: each component of the cross product fits the accumulator. -/
theorem outerProductResult : Obligations.OuterProductResult := by
  intro sf lm s
  have heffect := storeAll_effect config (crossProduct (rtDiagonal s.file) s.file.ir) (shiftOf sf)
    lm (cleared s.file)
  have hmem := crossProduct_mem (rtDiagonal s.file) s.file.ir
  have hmac := heffect.mac_toInt_of_mem hmem
  exact ⟨_, _, _, exec_op sf lm s, rfl, rfl, hmac .l1, hmac .l2, hmac .l3,
    (irHeld_storeAll _ _ _ _ (fun _ => False) _).ir, heffect.flagSet_of_mem hmem,
    ((laneWrites_cleared s.file).trans heffect.laneWrites).laneFrame⟩

end Sys2Proof.Machine

/-! # MVMVA and the reserved function codes (R126, R127, R210 to R215) -/

namespace Sys2Proof.Machine

open Claims

/-! Reserved function codes -/

/-- Settles O30: a word with a reserved code decodes to a reserved instruction, which leaves the
state as it is. -/
theorem reservedCodesChangeNothing : Obligations.ReservedCodesChangeNothing := by
  refine ⟨fun _ hi => exec_of_mem_reservedInstrs hi, fun w s hw => ?_⟩
  rw [given, step_exec, exec_of_mem_reservedInstrs (decodeWord_mem_reservedInstrs hw)]

/-! The frame -/

theorem laneFrame_mvmva (sf lm : Bool) (mx : MatrixSel) (v : VectorSel) (cv : TransSel)
    (s : State) :
    laneFrame s { s with file := mvmva config (shiftOf sf) mx v cv lm (cleared s.file) } :=
  ((laneWrites_cleared s.file).trans (laneWrites_mvmva ..)).laneFrame

/-- Settles O34: MVMVA is one operation over the three lanes. -/
theorem mvmvaFrame : Obligations.MvmvaFrame :=
  fun sf mx v cv lm s => ⟨_, exec_mvmva sf lm s mx v cv, laneFrame_mvmva sf lm mx v cv s⟩

/-! The operands in integers (R211 to R214) -/

/-- In the reserved matrix `R << 4` and its negation fit in 16 bits (R212). -/
theorem matrixOperand_toInt (f : RegFile) (mx : MatrixSel) (i j : Lane) :
    (((matrixOperand f mx).get i).get j).toInt = element f mx i j := by
  cases mx with
  | rt => rfl
  | llm => rfl
  | lcm => rfl
  | reserved =>
    have hr := byte_toNat_le f.rgbc.r
    cases i with
    | l1 =>
      cases j with
      | l1 | l2 =>
        rw [element, mul_comm]
        exact ofInt16_toInt (by rw [shl]; omega) (by rw [shl]; omega)
      | l3 => rfl
    | l2 => cases j <;> rfl
    | l3 => cases j <;> rfl

theorem vectorOperand_toInt (f : RegFile) (v : VectorSel) (j : Lane) :
    ((vectorOperand f v).get j).toInt = component f v j := by
  cases v <;> rfl

theorem promote_translationOperand (f : RegFile) (cv : TransSel) (l : Lane) :
    promote (translationOperand f cv) l = translation f cv l * 4096 := by
  cases cv <;> rfl

/-- From a clear FLAG, a lane operation whose last store is `set_ir(i, MACi, lm)` records its other
conditions, `other`, and those of IR. -/
theorem LaneEffect.flagSet_of_cleared {m : Lane → Word} {ir : Lane → Half} {lm : Bool}
    {cond other : Lane → FlagBit → Prop} {f g : RegFile} (h : LaneEffect m ir cond (cleared f) g)
    (hcond : ∀ l b, cond l b ↔ other l b ∨ irRaises (m l).toInt lm l b) (b : FlagBit) :
    g.flagSet b = true ↔ (∃ l, other l b) ∨ irCondition lm g b := by
  have hir : (∃ l, irRaises (m l).toInt lm l b) ↔ irCondition lm g b := by
    simp only [← h.mac]
    rfl
  rw [(h.congr_cond hcond).flag, cleared_flagSet_or, exists_or, hir]

/-! Every translation but the far colour (R126) -/

section

variable (sf lm : Bool) (m : Mat3) (t : Option (Triple Word)) (vec : Triple Half) (f : RegFile)

/-- The MACs keep the low bits of the exact sum, whatever the checks on the way find (R126; log
entry 3). -/
theorem transform_mac_eq (l : Lane) :
    (transform config m t vec (shiftOf sf) lm f).mac.get l = low32 (scaled sf (promote t l
      + (m.get l).l1.toInt * vec.l1.toInt + (m.get l).l2.toInt * vec.l2.toInt
      + (m.get l).l3.toInt * vec.l3.toInt)) := by
  rw [(transform_effect config m t vec (shiftOf sf) lm f _ fun _ => rfl).mac,
    macWord_eq_low32 (laneSums_l3_emod ..)]

theorem transform_cleared_flagSet (sh : Nat) (b : FlagBit) :
    (transform config m t vec sh lm (cleared f)).flagSet b = true ↔
      wideCondition (fun l => partials (promote t l) ((m.get l).l1.toInt * vec.l1.toInt)
        ((m.get l).l2.toInt * vec.l2.toInt) ((m.get l).l3.toInt * vec.l3.toInt)) b ∨
      irCondition lm (transform config m t vec sh lm (cleared f)) b := by
  simp only [← laneSums_eq_partials]
  rw [wideCondition_sums]
  revert b
  refine (transform_effect config m t vec sh lm (cleared f) _ fun _ => rfl).flagSet_of_cleared
    fun _ _ => ?_
  simp only [or_assoc]

end

/-- Settles O46: the handler is `transform` on the operands the selectors name, none of which the
clear of FLAG changes. -/
theorem mvmvaResult : Obligations.MvmvaResult := by
  intro sf mx v cv lm s hcv
  obtain ⟨hm, hv, ht⟩ := operands_flag s.file 0 mx v cv
  have hmvmva : mvmva config (shiftOf sf) mx v cv lm (cleared s.file) =
      transform config (matrixOperand s.file mx) (translationOperand s.file cv)
        (vectorOperand s.file v) (shiftOf sf) lm (cleared s.file) := by
    rw [mvmva_of_ne lm hcv, cleared, hm, hv, ht]
  refine ⟨_, exec_mvmva sf lm s mx v cv, fun l => ?_, (irHeld_mvmva _ _ _ _ (fun _ => False) ..).ir,
    fun b => ?_, laneFrame_mvmva sf lm mx v cv s⟩
  · simp only [hmvmva, transform_mac_eq, promote_translationOperand, ← matrixOperand_toInt,
      ← vectorOperand_toInt, Triple.get_l1, Triple.get_l2, Triple.get_l3]
  · simp only [hmvmva, transform_cleared_flagSet, promote_translationOperand,
      ← matrixOperand_toInt, ← vectorOperand_toInt, Triple.get_l1, Triple.get_l2, Triple.get_l3]

/-! The far colour (R127, R213) -/

/-- The first of the last two products fits the accumulator, so its range check changes nothing
(R127, R131). -/
theorem lastTwo_eq (cfg : Config) (row vec : Triple Half) :
    lastTwo cfg row vec = (row.l2.toInt * vec.l2.toInt,
      row.l2.toInt * vec.l2.toInt + row.l3.toInt * vec.l3.toInt) := by
  have h2 := half_mul_mem row.l2 vec.l2
  rw [lastTwo, wideValue_eq_self cfg (by omega) (by omega)]

/-- The value the discarded first step saturates is the word it would have stored (R127). -/
theorem sext32_asr_wideValue (v : Int) (sf : Bool) :
    sext 32 (asr (wideValue config v) (shiftOf sf)) = (low32 (scaled sf v)).toInt := by
  rw [sext32_eq_toInt, ← macWord, macWord_eq_low32 rfl]

section

variable (sf lm : Bool) (m : Mat3) (fc : Triple Word) (vec : Triple Half) (f : RegFile)

theorem transformFc_mac_eq (l : Lane) :
    (transformFc config m fc vec (shiftOf sf) lm f).mac.get l = low32 (scaled sf
      ((m.get l).l2.toInt * vec.l2.toInt + (m.get l).l3.toInt * vec.l3.toInt)) := by
  rw [(transformFc_effect config m fc vec (shiftOf sf) lm f _ fun l => lastTwo_eq ..).mac,
    macWord_eq_low32 rfl]

/-- The sums of the last two products never leave 44 bits, so only the discarded first step and the
final store record conditions. -/
theorem transformFc_cleared_flagSet (b : FlagBit) :
    (transformFc config m fc vec (shiftOf sf) lm (cleared f)).flagSet b = true ↔
      (∃ l, wideRaises (fcSum fc m vec l) l b ∨
        irRaises (low32 (scaled sf (fcSum fc m vec l))).toInt false l b) ∨
      irCondition lm (transformFc config m fc vec (shiftOf sf) lm (cleared f)) b := by
  revert b
  refine (transformFc_effect config m fc vec (shiftOf sf) lm (cleared f) _ fun _ =>
    lastTwo_eq ..).flagSet_of_cleared fun l c => ?_
  have h2 := half_mul_mem (m.get l).l2 vec.l2
  have h3 := half_mul_mem (m.get l).l3 vec.l3
  have hsecond : ¬ wideRaises ((m.get l).l2.toInt * vec.l2.toInt) l c :=
    not_wideRaises (by omega) (by omega) l c
  have hsum : ¬ wideRaises
      ((m.get l).l2.toInt * vec.l2.toInt + (m.get l).l3.toInt * vec.l3.toInt) l c :=
    not_wideRaises (by omega) (by omega) l c
  rw [or_iff_right hsecond, or_iff_right hsum, sext32_asr_wideValue, or_assoc]

end

/-- Settles O47: the handler is `transform_fc`; its last two products never leave 44 bits. -/
theorem mvmvaFarColourResult : Obligations.MvmvaFarColourResult := by
  intro sf mx v lm s
  obtain ⟨hm, hv, -⟩ := operands_flag s.file 0 mx v .fc
  have hmvmva : mvmva config (shiftOf sf) mx v .fc lm (cleared s.file) =
      transformFc config (matrixOperand s.file mx) s.file.fc (vectorOperand s.file v) (shiftOf sf)
        lm (cleared s.file) := by
    rw [mvmva_fc, cleared, hm, hv]
  have hsum (l : Lane) : fcSum s.file.fc (matrixOperand s.file mx) (vectorOperand s.file v) l =
      (s.file.fc.get l).toInt * 4096 + element s.file mx l .l1 * component s.file v .l1 := by
    rw [← matrixOperand_toInt, ← vectorOperand_toInt]
    rfl
  refine ⟨_, exec_mvmva sf lm s mx v .fc, fun l => ?_,
    (irHeld_mvmva _ _ _ _ (fun _ => False) ..).ir, fun b => ?_, laneFrame_mvmva sf lm mx v .fc s⟩
  · simp only [hmvmva, transformFc_mac_eq, ← matrixOperand_toInt, ← vectorOperand_toInt,
      Triple.get_l2, Triple.get_l3]
  · simp only [hmvmva, transformFc_cleared_flagSet, hsum, wideCondition_single, exists_or, or_assoc]
    rfl

/-! RTPS and MVMVA (R152, R211) -/

/-- The conditions of the final store, lane by lane. -/
theorem irCondition_iff (lm : Bool) (g : RegFile) (b : FlagBit) : irCondition lm g b ↔
    (b = .ir1Sat ∧ outside (irMin lm) 0x7FFF g.mac.l1.toInt) ∨
    (b = .ir2Sat ∧ outside (irMin lm) 0x7FFF g.mac.l2.toInt) ∨
    (b = .ir3Sat ∧ outside (irMin lm) 0x7FFF g.mac.l3.toInt) := by
  constructor
  · rintro ⟨l, h⟩
    cases l
    exacts [.inl h, .inr (.inl h), .inr (.inr h)]
  · rintro (h | h | h)
    exacts [⟨.l1, h⟩, ⟨.l2, h⟩, ⟨.l3, h⟩]

/-- Of the conditions of the rotation's stores a vertex decides only that of IR3 in its own way, and
what follows the rotation records none of them (R152). -/
theorem vertexCondition_iff_of_mem {b : FlagBit} (hb : b ∈ wideBits ++ [.ir1Sat, .ir2Sat])
    (lm last : Bool) (vec : Triple Half) (f g : RegFile) :
    vertexCondition lm last vec f g b ↔
      wideCondition (rotatedSums f vec) b ∨ irCondition lm g b := by
  have hdisjoint : ∀ c ∈ wideBits ++ [.ir1Sat, .ir2Sat], c ∉ FlagBit.ir3Sat :: screenBits := by
    decide
  have hother := hdisjoint b hb
  simp only [screenBits, List.mem_cons, not_or] at hother
  simp [vertexCondition, irCondition_iff, mac0Condition, hother]

/-- Settles O48: both are the sums of the rotation matrix, V0 and TR. -/
theorem rtpsRotatesAsMvmva : Obligations.RtpsRotatesAsMvmva := by
  intro sf lm s
  obtain ⟨t, ht, hvertex, -⟩ := rtpsResult sf lm s
  obtain ⟨u, hu, humac, huir, huflag, -⟩ := mvmvaResult sf .rt .v0 .tr lm s nofun
  have hmac : t.file.mac = u.file.mac :=
    Triple.ext_get fun l => (hvertex.mac l).trans (humac l).symm
  have hir (l : Lane) : t.file.ir.get l = u.file.ir.get l :=
    BitVec.eq_of_toInt_eq (by rw [hvertex.ir, huir, hmac])
  refine ⟨t, u, ht, hu, hmac, hir .l1, hir .l2, fun b hb => ?_⟩
  have hcond : irCondition lm t.file b ↔ irCondition lm u.file b := by
    rw [irCondition, irCondition, hmac]
  rw [Bool.eq_iff_iff, hvertex.flags, huflag, vertexCondition_iff_of_mem hb, hcond]
  rfl

end Sys2Proof.Machine

/-! # The words of the stored fields (R221 to R227, R231 to R235, R243) -/

namespace Sys2Proof.Machine

open Claims

/-- The 16-bit fields that have an index of their own. -/
abbrev halfFields : List (Fin 64 × (RegFile → Half)) :=
  signedFields ++ unsignedFields ++ [(58, (·.h))]

/-- Every index has one of the five classes of fields or is one of the six special ones. -/
theorem forall_index_iff (P : Fin 64 → Prop) : (∀ i, P i) ↔
    (∀ p ∈ pairFields, P p.1) ∧ (∀ p ∈ signedFields, P p.1) ∧ (∀ p ∈ unsignedFields, P p.1) ∧
      (∀ p ∈ wordFields, P p.1) ∧ (∀ p ∈ colourFields, P p.1) ∧
      P 15 ∧ P 28 ∧ P 29 ∧ P 31 ∧ P 58 ∧ P 63 := by
  constructor
  · intro h
    exact ⟨fun p _ => h p.1, fun p _ => h p.1, fun p _ => h p.1, fun p _ => h p.1,
      fun p _ => h p.1, h _, h _, h _, h _, h _, h _⟩
  · rintro ⟨hpair, hsigned, hunsigned, hword, hcolour, h15, h28, h29, h31, h58, h63⟩ i
    have hclass : i ∈ pairFields.map Prod.fst ∨ i ∈ signedFields.map Prod.fst ∨
        i ∈ unsignedFields.map Prod.fst ∨ i ∈ wordFields.map Prod.fst ∨
        i ∈ colourFields.map Prod.fst ∨ i ∈ [15, 28, 29, 31, 58, 63] := by
      revert i
      decide
    simp only [List.mem_map] at hclass
    obtain ⟨p, hp, rfl⟩ | ⟨p, hp, rfl⟩ | ⟨p, hp, rfl⟩ | ⟨p, hp, rfl⟩ | ⟨p, hp, rfl⟩ | hspecial :=
      hclass
    · exact hpair p hp
    · exact hsigned p hp
    · exact hunsigned p hp
    · exact hword p hp
    · exact hcolour p hp
    · simp only [List.mem_cons, List.not_mem_nil, or_false] at hspecial
      rcases hspecial with rfl | rfl | rfl | rfl | rfl | rfl <;> assumption

/-- The fields with an index of their own, LZCR and FLAG are all the fields. -/
theorem file_ext_of_fields {f g : RegFile}
    (hpair : ∀ p ∈ pairFields, p.2.1 f = p.2.1 g ∧ p.2.2 f = p.2.2 g)
    (hhalf : ∀ p ∈ halfFields, p.2 f = p.2 g) (hword : ∀ p ∈ wordFields, p.2 f = p.2 g)
    (hcolour : ∀ p ∈ colourFields, p.2 f = p.2 g) (hlzcr : f.lzcr = g.lzcr)
    (hflag : f.flag = g.flag) : f = g := by
  simp only [pairFields, halfFields, signedFields, unsignedFields, wordFields, colourFields,
    List.flatten_cons, List.flatten_nil, List.cons_append, List.nil_append, List.append_nil,
    List.forall_mem_cons, List.not_mem_nil, false_implies, implies_true]
    at hpair hhalf hword hcolour
  simp only [RegFile.ext_iff, Triple.ext_iff, ScreenXY.ext_iff, hpair, hhalf, hword, hcolour, hlzcr,
    hflag, and_self]

/-! Reads, class by class. `List.Forall` of a literal list is the conjunction over its entries, and
each entry holds by computation. -/

theorem view_pairFields (f : RegFile) : ∀ p ∈ pairFields, view p.1 f = p.2.2 f ++ p.2.1 f :=
  List.forall_iff_forall_mem.1 (by repeat' constructor)

theorem view_signedFields (f : RegFile) : ∀ p ∈ signedFields, view p.1 f = readSigned (p.2 f) :=
  List.forall_iff_forall_mem.1 (by repeat' constructor)

theorem view_unsignedFields (f : RegFile) :
    ∀ p ∈ unsignedFields, view p.1 f = readUnsigned (p.2 f) :=
  List.forall_iff_forall_mem.1 (by repeat' constructor)

theorem view_wordFields (f : RegFile) : ∀ p ∈ wordFields, view p.1 f = p.2 f :=
  List.forall_iff_forall_mem.1 (by repeat' constructor)

theorem view_colourFields (f : RegFile) : ∀ p ∈ colourFields, view p.1 f = packColour (p.2 f) :=
  List.forall_iff_forall_mem.1 (by repeat' constructor)

/-- Whichever way a 16-bit field is extended, its bits are the low ones of the word. -/
theorem lo_view_halfFields (f : RegFile) : ∀ p ∈ halfFields, lo (view p.1 f) = p.2 f := by
  simp only [halfFields, List.forall_mem_append, List.forall_mem_singleton]
  refine ⟨⟨fun p hp => ?_, fun p hp => ?_⟩, lo_readH _ _⟩
  · rw [view_signedFields f p hp, lo_readSigned]
  · rw [view_unsignedFields f p hp, lo_readUnsigned]

theorem ofColour_iff (w : Word) (c : Colour) : ofColour w c ↔ unpackColour w = c :=
  (Colour.ext_iff (x := unpackColour w) (y := c)).symm

/-- Settles O10: each class of fields, one after the other. -/
theorem readViewsOfStoredFields : Obligations.ReadViewsOfStoredFields := by
  intro f
  refine ⟨fun p hp => ?_, fun p hp => ?_, fun p hp => ?_, view_wordFields f, ?_, fun p hp => ?_,
    rfl⟩
  · rw [view_pairFields f p hp]
    exact ⟨lo_append .., hi_append ..⟩
  · rw [view_signedFields f p hp, readSigned, BitVec.toInt_signExtend_of_le (by decide)]
  · rw [view_unsignedFields f p hp, readUnsigned, BitVec.toNat_setWidth_of_le (by decide)]
  · exact BitVec.toNat_setWidth_of_le (by decide)
  · rw [ofColour_iff, view_colourFields f p hp, unpackColour_packColour]

/-- Settles O11: both branches of `readH`. -/
theorem hReadsSignExtended : Obligations.HReadsSignExtended := by
  intro cfg f
  refine ⟨fun hsigned => ?_, fun hunsigned => ?_, rfl⟩
  · rw [readReg, readH, if_pos hsigned, readSigned, BitVec.toInt_signExtend_of_le (by decide)]
  · rw [readReg, readH, hunsigned, if_neg nofun, readUnsigned,
      BitVec.toNat_setWidth_of_le (by decide)]

/-! Writes, class by class -/

theorem writeReg_pairFields (v : Word) (f : RegFile) : ∀ p ∈ pairFields,
    p.2.1 (writeReg (Reg.ofIndex p.1) v f) = lo v ∧ p.2.2 (writeReg (Reg.ofIndex p.1) v f) = hi v :=
  List.forall_iff_forall_mem.1 (by repeat' constructor)

theorem writeReg_halfFields (v : Word) (f : RegFile) :
    ∀ p ∈ halfFields, p.2 (writeReg (Reg.ofIndex p.1) v f) = lo v :=
  List.forall_iff_forall_mem.1 (by repeat' constructor)

theorem writeReg_wordFields (v : Word) (f : RegFile) :
    ∀ p ∈ wordFields, p.2 (writeReg (Reg.ofIndex p.1) v f) = v :=
  List.forall_iff_forall_mem.1 (by repeat' constructor)

theorem writeReg_colourFields (v : Word) (f : RegFile) :
    ∀ p ∈ colourFields, p.2 (writeReg (Reg.ofIndex p.1) v f) = unpackColour v :=
  List.forall_iff_forall_mem.1 (by repeat' constructor)

/-- A pair's word reads back whole. -/
theorem view_writeReg_pairFields (v : Word) (f : RegFile) :
    ∀ p ∈ pairFields, view p.1 (writeReg (Reg.ofIndex p.1) v f) = v := by
  intro p hp
  obtain ⟨hlo, hhi⟩ := writeReg_pairFields v f p hp
  rw [view_pairFields _ p hp, hlo, hhi, hi_append_lo]

/-- `WR` stores into the file and returns nothing. -/
theorem step_given_wr (i : Fin 64) (v : Word) (s : State) : step (given (.wr i v) s) =
    .next { s with file := writeReg (Reg.ofIndex i) v s.file, reply := none } :=
  step_wr s s.pending i v

/-- What holds of the written file holds after the step, which leaves the other words (R78). -/
theorem step_given_wr_of {P : RegFile → Prop} {i : Fin 64} {v : Word} {s : State}
    (h : P (writeReg (Reg.ofIndex i) v s.file)) :
    ∃ t, step (given (.wr i v) s) = .next t ∧ wroteOnly i s t ∧ P t.file :=
  ⟨_, step_given_wr i v s, ⟨fun _ hj => view_writeReg_of_not_mem_affected v s.file hj, rfl, rfl⟩, h⟩

/-- Settles O15: the stores of each class, and what any write leaves unchanged. -/
theorem writesStoreRawBits : Obligations.WritesStoreRawBits := by
  intro v s
  refine ⟨fun p hp => ?_, fun p hp => ?_, fun p hp => ?_, fun p hp => ?_⟩
  · obtain ⟨hlo, hhi⟩ := writeReg_pairFields v s.file p hp
    refine step_given_wr_of (P := fun f => p.2.1 f = lo v ∧ p.2.2 f = hi v ∧
      (p.1 = 14 → view 15 f = v)) ⟨hlo, hhi, fun h14 => ?_⟩
    have hword := view_writeReg_pairFields v s.file p hp
    rw [h14] at hword ⊢
    exact hword
  · exact step_given_wr_of (P := fun f => p.2 f = lo v) (writeReg_halfFields v s.file p hp)
  · exact step_given_wr_of (P := fun f => p.2 f = v) (writeReg_wordFields v s.file p hp)
  · exact step_given_wr_of (P := fun f => ofColour v (p.2 f))
      ((ofColour_iff ..).2 (writeReg_colourFields v s.file p hp).symm)

/-- Settles O16: the FIFO push of `WR 15`, whole. -/
theorem writeSxypPushesTheFifo : Obligations.WriteSxypPushesTheFifo :=
  step_given_wr 15

end Sys2Proof.Machine

/-! # The colour view and FLAG (R42, R43, R226, R228, R238, R242) -/

namespace Sys2Proof.Machine

open Claims

/-! The 5:5:5 colour -/

theorem colourLane_toNat (h : Half) :
    ((colourLane h).toNat : Int) = sat 0 0x1F (h.toInt / 128) := by
  have hclamp : clamp (asr h.toInt 7) 0 0x1F = sat 0 0x1F (h.toInt / 128) :=
    clamp_eq_sat (by decide)
  have hmem : 0 ≤ sat 0 0x1F (h.toInt / 128) ∧ sat 0 0x1F (h.toInt / 128) ≤ 0x1F := by
    rw [← hclamp]
    exact clamp_mem (by decide)
  rw [colourLane, hclamp, BitVec.toNat_ofInt]
  omega

/-- A lane comes back from the IR it was decomposed into. -/
theorem colourLane_colourUnpack : ∀ c : BitVec 5, colourLane (colourUnpack c) = c := by decide

theorem colourUnpack_toInt : ∀ c : BitVec 5, (colourUnpack c).toInt = c.toNat * 0x80 := by decide

/-- The colour view holds the lanes in bits 14:0, the first one lowest. -/
theorem colourView_lanes (t : Triple Half) :
    (colourView t).extractLsb' 0 5 = colourLane t.l1 ∧
    (colourView t).extractLsb' 5 5 = colourLane t.l2 ∧
    (colourView t).extractLsb' 10 5 = colourLane t.l3 ∧ (colourView t).extractLsb' 15 17 = 0 := by
  unfold colourView
  refine ⟨BitVec.extractLsb'_append_eq_right, ?_, ?_, ?_⟩
  · rw [BitVec.extractLsb'_append_eq_of_le (by decide)]
    exact BitVec.extractLsb'_append_eq_right
  · iterate 2 rw [BitVec.extractLsb'_append_eq_of_le (by decide)]
    exact BitVec.extractLsb'_append_eq_right
  · iterate 2 rw [BitVec.extractLsb'_append_eq_of_le (by decide)]
    exact BitVec.extractLsb'_append_eq_left

/-- Settles O12: both indices read `colourView`. -/
theorem colourViewIsComputedFromIr : Obligations.ColourViewIsComputedFromIr := by
  intro f
  have hview : view 28 f = colourView f.ir := rfl
  obtain ⟨h1, h2, h3, hzero⟩ := colourView_lanes f.ir
  refine ⟨rfl, ?_⟩
  rw [hview, h1, h2, h3]
  exact ⟨colourLane_toNat _, colourLane_toNat _, colourLane_toNat _, hzero⟩

/-- The colour view of a decomposed colour is the colour. -/
theorem colourView_writeIrgb (v : Word) (f : RegFile) :
    colourView (writeIrgb v f).ir = (v.setWidth 15).setWidth 32 := by
  simp only [colourView, writeIrgb, colourLane_colourUnpack]
  apply BitVec.eq_of_getLsbD_eq
  intro i hi
  simp only [BitVec.getLsbD_append, BitVec.getLsbD_extractLsb', BitVec.getLsbD_setWidth]
  interval_cases i <;> simp

/-- Settles O17: `writeIrgb`, lane by lane, and its view. -/
theorem writeIrgbDecomposes : Obligations.WriteIrgbDecomposes := fun v s =>
  ⟨_, step_given_wr 28 v s, colourUnpack_toInt _, colourUnpack_toInt _, colourUnpack_toInt _, rfl,
    colourView_writeIrgb v s.file, colourView_writeIrgb v s.file⟩

/-! FLAG -/

theorem flagNumbers_position : ∀ p ∈ flagNumbers, p.2.position = p.1 := by decide

/-- Each condition stands at its bit number (R42). -/
theorem flagView_getLsbD_position (w : Flags) (b : FlagBit) :
    (flagView w).getLsbD b.position = flagHas w b := by
  obtain ⟨hlo, hhi⟩ := b.position_bounds
  rw [flagView, BitVec.getLsbD_append, if_neg (by omega), BitVec.getLsbD_append, if_pos (by omega),
    flagHas]

/-- A written word stores each condition from its bit number (R242). -/
theorem flagHas_flagStored (v : Word) (b : FlagBit) :
    flagHas (flagStored v) b = v.getLsbD b.position := by
  obtain ⟨hlo, hhi⟩ := b.position_bounds
  rw [flagHas, flagStored, BitVec.getLsbD_extractLsb', decide_eq_true (by omega), Bool.true_and,
    Nat.add_sub_cancel' hlo]

/-- The mask of R43 is the bits of the conditions that feed bit 31. -/
theorem errMask_getLsbD_iff {i : Nat} :
    errMask.getLsbD i = true ↔ ∃ b ∈ errConditions, b.position = i := by
  constructor
  · intro h
    have hi : i < 32 := BitVec.lt_of_getLsbD h
    revert h
    revert i
    decide
  · rintro ⟨b, hb, rfl⟩
    revert b
    decide

theorem and_errMask_ne_zero_iff (v : Word) :
    v &&& errMask ≠ 0 ↔ ∃ b ∈ errConditions, v.getLsbD b.position = true := by
  constructor
  · intro hne
    by_contra! hnone
    refine hne (BitVec.eq_of_getLsbD_eq fun i _ => ?_)
    cases hmask : errMask.getLsbD i with
    | false => simp [hmask]
    | true =>
      obtain ⟨b, hb, rfl⟩ := errMask_getLsbD_iff.1 hmask
      simp [hnone b hb]
  · rintro ⟨b, hb, hbit⟩ hzero
    have hmask := errMask_getLsbD_iff.2 ⟨b, hb, rfl⟩
    have hand : (v &&& errMask).getLsbD b.position = true := by
      rw [BitVec.getLsbD_and, hbit, hmask, Bool.and_self]
    simp [hzero] at hand

/-- Settles O13: the conditions bit by bit, and the mask of R43. -/
theorem flagReadsWithDerivedBit31 : Obligations.FlagReadsWithDerivedBit31 := by
  intro f
  refine ⟨fun p hp => ?_, BitVec.extractLsb'_append_eq_right, ?_⟩
  · rw [← flagNumbers_position p hp]
    exact flagView_getLsbD_position f.flag p.2
  · have hview : view 63 f = flagView f.flag := rfl
    rw [hview, flagView_bit31, decide_eq_true_iff, and_errMask_ne_zero_iff]
    simp only [flagView_getLsbD_position, RegFile.flagSet]

/-- Bit 31 of a written word plays no part in the bit 31 read (R242). -/
theorem errBit_flagStored (v : Word) :
    errBit (flagStored v) = decide (v &&& 0x7F87E000 ≠ 0) := by
  have hbit : errBit (flagStored v) = (flagView (flagStored v)).getLsbD 31 := by
    simp only [flagView, BitVec.getLsbD_append]
    cases errBit (flagStored v) <;> rfl
  have hne : flagView (flagStored v) &&& errMask ≠ 0 ↔ v &&& errMask ≠ 0 := by
    simp only [and_errMask_ne_zero_iff, flagView_getLsbD_position, flagHas_flagStored]
  rw [hbit, flagView_bit31, decide_eq_decide, hne, errMask]

/-- What FLAG reads after a write: bits 30:12 of the word, and bit 31 from those (R242). -/
theorem flagView_flagStored (v : Word) : flagView (flagStored v) =
    (v &&& 0x7FFFF000) ||| (if v &&& 0x7F87E000 ≠ 0 then 0x80000000 else 0) := by
  have hplaced (e : Bool) : BitVec.ofBool e ++ flagStored v ++ 0#12 =
      (v &&& 0x7FFFF000) ||| (if e = true then 0x80000000 else 0) := by
    apply BitVec.eq_of_getLsbD_eq
    intro i hi
    simp only [flagStored, BitVec.getLsbD_append, BitVec.getLsbD_extractLsb', BitVec.getLsbD_or,
      BitVec.getLsbD_and]
    cases e <;> interval_cases i <;> simp
  rw [flagView, hplaced, errBit_flagStored]
  simp only [decide_eq_true_iff]

/-- Settles O20: the stored conditions are bits of the word. -/
theorem writeFlagKeepsBits30To12 : Obligations.WriteFlagKeepsBits30To12 := by
  refine fun v s => ⟨_, step_given_wr 63 v s, fun p hp => ?_, rfl, flagView_flagStored v⟩
  rw [← flagNumbers_position p hp]
  exact flagHas_flagStored v p.2

end Sys2Proof.Machine

/-! # The leading-bit pair: the count, and what can change it (R239, R240, R241) -/

namespace Sys2Proof.Machine

open Claims

/-- A number lies in the initial run that passes a test iff all up to it pass. -/
theorem lt_length_takeWhile_range_iff {m k : Nat} (hk : k < m) (p : Nat → Bool) :
    k < ((List.range m).takeWhile p).length ↔ ∀ j ≤ k, p j = true := by
  have hle : (List.range m).findIdx (fun j => !p j) ≤ m := by
    simpa using List.findIdx_le_length (xs := List.range m) (p := fun j => !p j)
  rw [List.takeWhile_eq_take_findIdx_not, List.length_take, List.length_range, min_eq_left hle,
    List.lt_findIdx_iff]
  simp [hk]

/-- Settles O19: the count is `signRun`. -/
theorem writeLzcsCountsLeadingBits : Obligations.WriteLzcsCountsLeadingBits := by
  refine fun v s => ⟨signRun v, signRun_pos v, signRun_le v, fun k hk => ?_, step_given_wr 30 v s⟩
  simp only [signRun, lt_length_takeWhile_range_iff hk, beq_iff_eq]

/-- A step that changes LZCR takes one of the three transactions of R241. -/
theorem step_given_lzcr_ne {x : Transaction} {s t : State} (h : step (given x s) = .next t)
    (hne : t.file.lzcr ≠ s.file.lzcr) :
    (∃ v, x = .wr 30 v) ∨ x = .reset ∨ ∃ d, x = .restore d := by
  cases x with
  | rd i =>
    cases (step_given_rd i s).symm.trans h
    exact absurd rfl hne
  | wr i v =>
    cases (step_given_wr i v s).symm.trans h
    have hi : Reg.ofIndex i = .lzcs := by
      by_contra hr
      exact hne (writeReg_lzcs_lzcr hr v s.file).2
    have h30 : i = 30 := by rw [← Reg.index_ofIndex i, hi, Reg.index]
    exact .inl ⟨v, by rw [h30]⟩
  | exec w =>
    obtain ⟨hin, -, -⟩ := exec_keeps ((step_exec s s.pending w).symm.trans h)
    exact absurd (congrArg RegFile.lzcr hin :) hne
  | reset => exact .inr (.inl rfl)
  | dump =>
    cases (step_dump s s.pending).symm.trans h
    exact absurd rfl hne
  | restore d => exact .inr (.inr ⟨d, rfl⟩)

/-- Settles O18: both indices are left alone by `writeReg`, and LZCR by every other transaction. -/
theorem readOnlyWritesAreIgnored : Obligations.ReadOnlyWritesAreIgnored :=
  ⟨fun v s => ⟨step_given_wr 29 v s, step_given_wr 31 v s⟩, fun _ _ _ => step_given_lzcr_ne⟩

end Sys2Proof.Machine

/-! # Round trips: write and read, dump and restore (R244, R245, R246) -/

namespace Sys2Proof.Machine

open Claims

/-! The table of R244, class by class -/

theorem roundTrip_signedFields (v : Word) (f : RegFile) :
    ∀ p ∈ signedFields, roundTrip p.1 v f = readSigned (lo v) :=
  List.forall_iff_forall_mem.1 (by repeat' constructor)

theorem roundTrip_unsignedFields (v : Word) (f : RegFile) :
    ∀ p ∈ unsignedFields, roundTrip p.1 v f = readUnsigned (lo v) :=
  List.forall_iff_forall_mem.1 (by repeat' constructor)

/-- The indices that keep every bit written. -/
theorem roundTrip_eq_self (v : Word) (f : RegFile) : ∀ i ∈ pairFields.map Prod.fst ++
    wordFields.map Prod.fst ++ colourFields.map Prod.fst, roundTrip i v f = v :=
  List.forall_iff_forall_mem.1 (by repeat' constructor)

/-- The word of an index after a write of it is the one in the table of R244. -/
theorem view_writeReg_self (v : Word) (f : RegFile) (i : Fin 64) :
    view i (writeReg (Reg.ofIndex i) v f) = roundTrip i v f := by
  revert i
  rw [forall_index_iff]
  refine ⟨fun p hp => ?_, fun p hp => ?_, fun p hp => ?_, fun p hp => ?_, fun p hp => ?_, ?_,
    colourView_writeIrgb v f, rfl, rfl, rfl, flagView_flagStored v⟩
  · rw [view_writeReg_pairFields v f p hp, roundTrip_eq_self]
    simp only [List.mem_append, List.mem_map_of_mem hp, true_or]
  · rw [view_signedFields _ p hp, writeReg_halfFields v f p (by simp [hp]),
      roundTrip_signedFields v f p hp]
  · rw [view_unsignedFields _ p hp, writeReg_halfFields v f p (by simp [hp]),
      roundTrip_unsignedFields v f p hp]
  · rw [view_wordFields _ p hp, writeReg_wordFields v f p hp, roundTrip_eq_self]
    simp only [List.mem_append, List.mem_map_of_mem hp, or_true, true_or]
  · rw [view_colourFields _ p hp, writeReg_colourFields v f p hp, packColour_unpackColour,
      roundTrip_eq_self]
    simp only [List.mem_append, List.mem_map_of_mem hp, or_true]
  · exact hi_append_lo v

/-- Settles O21: the read takes the file the write left. -/
theorem writeThenReadRoundTrip : Obligations.WriteThenReadRoundTrip := by
  intro i v s
  have hwrite := step_given_wr i v (given (.rd i) s)
  have hread := step_given_rd i
    { s with file := writeReg (Reg.ofIndex i) v s.file, reply := none }
  exact ⟨_, core_run_two hwrite hread, by rw [view_writeReg_self]⟩

/-! What `RESTORE` stores, class by class -/

section

variable (d : DumpWords) (f : RegFile)

theorem restoreFile_pairFields : ∀ p ∈ pairFields,
    p.2.1 (restoreFile d f) = lo d[p.1] ∧ p.2.2 (restoreFile d f) = hi d[p.1] := by
  rw [restoreFile_eq]
  exact List.forall_iff_forall_mem.1 (by repeat' constructor)

theorem restoreFile_halfFields : ∀ p ∈ halfFields, p.2 (restoreFile d f) = lo d[p.1] := by
  rw [restoreFile_eq]
  exact List.forall_iff_forall_mem.1 (by repeat' constructor)

theorem restoreFile_wordFields : ∀ p ∈ wordFields, p.2 (restoreFile d f) = d[p.1] := by
  rw [restoreFile_eq]
  exact List.forall_iff_forall_mem.1 (by repeat' constructor)

theorem restoreFile_colourFields :
    ∀ p ∈ colourFields, p.2 (restoreFile d f) = unpackColour d[p.1] := by
  rw [restoreFile_eq]
  exact List.forall_iff_forall_mem.1 (by repeat' constructor)

theorem restoreFile_ir : (restoreFile d f).ir = ⟨lo d[9], lo d[10], lo d[11]⟩ := by
  rw [restoreFile_eq]

theorem restoreFile_lzcr : (restoreFile d f).lzcr = d[31].setWidth 6 := by
  rw [restoreFile_eq]

theorem restoreFile_h : (restoreFile d f).h = lo d[58] := by
  rw [restoreFile_eq]

theorem restoreFile_flag : (restoreFile d f).flag = flagStored d[63] := by
  rw [restoreFile_eq]

end

/-! Dump, then restore -/

/-- The read views determine the file: `RESTORE` recovers every field from them. -/
theorem restoreFile_of_views {d : DumpWords} {f : RegFile} (h : ∀ i : Fin 64, d[i] = view i f)
    (g : RegFile) : restoreFile d g = f := by
  apply file_ext_of_fields
  · intro p hp
    obtain ⟨hlo, hhi⟩ := restoreFile_pairFields d g p hp
    rw [hlo, hhi, h, view_pairFields f p hp, lo_append, hi_append]
    exact ⟨rfl, rfl⟩
  · intro p hp
    rw [restoreFile_halfFields d g p hp, h, lo_view_halfFields f p hp]
  · intro p hp
    rw [restoreFile_wordFields d g p hp, h, view_wordFields f p hp]
  · intro p hp
    rw [restoreFile_colourFields d g p hp, h, view_colourFields f p hp, unpackColour_packColour]
  · have hview : d[31] = f.lzcr.setWidth 32 := h 31
    rw [restoreFile_lzcr, hview, BitVec.setWidth_setWidth_of_le _ (by decide), BitVec.setWidth_eq]
  · have hview : d[63] = flagView f.flag := h 63
    rw [restoreFile_flag, hview, flagStored_flagView]

theorem step_given_dump (s : State) : step (given .dump s) =
    .next { s with reply := some (.words (dumpFile config s.file)) } :=
  step_dump s s.pending

theorem step_given_restore (d : DumpWords) (s : State) : step (given (.restore d) s) =
    .next { s with file := restoreFile d s.file, reply := none } :=
  step_restore s s.pending d

/-- Settles O25: files with the same views are what `RESTORE` makes of the same words. -/
theorem dumpReturnsEveryView : Obligations.DumpReturnsEveryView := by
  refine ⟨fun s => ⟨_, step_given_dump s, dumpFile_get config s.file⟩, fun f g hviews => ?_⟩
  have hdump := dumpFile_get config f
  calc f = restoreFile (dumpFile config f) f := (restoreFile_of_views hdump f).symm
    _ = g := restoreFile_of_views (fun i => (hdump i).trans (hviews i)) f

/-- Settles O26: the restored words are the read views. -/
theorem restoreOfDumpIsTheIdentity : Obligations.RestoreOfDumpIsTheIdentity := by
  intro s
  refine ⟨_, step_given_dump s, fun u => ?_⟩
  rw [step_given_restore, restoreFile_of_views (dumpFile_get config s.file)]

/-! Restore, then dump -/

/-- The words a `RESTORE` does not lose: each clause says that the bits its index discards are the
ones its read view supplies. -/
structure Recoverable (d : DumpWords) : Prop where
  mirror : d[15] = d[14]
  signed : ∀ p ∈ signedFields, d[p.1] = readSigned (lo d[p.1])
  unsigned : ∀ p ∈ unsignedFields, d[p.1] = readUnsigned (lo d[p.1])
  h : d[58] = readH config.hReadSignExtends (lo d[58])
  irgb : d[28] = colourView ⟨lo d[9], lo d[10], lo d[11]⟩
  orgb : d[29] = d[28]
  flag : d[63] = flagView (flagStored d[63])

/-- The well-formedness check is these clauses and the range of LZCR. -/
theorem dump_wellFormed_iff (d : DumpWords) :
    Dump.wellFormed config d = true ↔ Recoverable d ∧ d[31].toNat ≤ 32 := by
  have hsigned : Dump.signedOk d =
      signedFields.all fun p => d[p.1] == readSigned (lo d[p.1]) := rfl
  have hunsigned : Dump.unsignedOk d =
      unsignedFields.all fun p => d[p.1] == readUnsigned (lo d[p.1]) := rfl
  simp only [Dump.wellFormed, Dump.mirrorOk, hsigned, hunsigned, Dump.hOk, Dump.colourOk,
    Dump.lzcrOk, Dump.flagOk, Bool.and_eq_true, List.all_eq_true, beq_iff_eq, decide_eq_true_iff]
  constructor
  · rintro ⟨⟨⟨⟨⟨⟨hmirror, hsigned⟩, hunsigned⟩, hh⟩, hirgb, horgb⟩, hlzcr⟩, hflag⟩
    exact ⟨⟨hmirror, hsigned, hunsigned, hh, hirgb, horgb, hflag⟩, hlzcr⟩
  · rintro ⟨⟨hmirror, hsigned, hunsigned, hh, hirgb, horgb, hflag⟩, hlzcr⟩
    exact ⟨⟨⟨⟨⟨⟨hmirror, hsigned⟩, hunsigned⟩, hh⟩, hirgb, horgb⟩, hlzcr⟩, hflag⟩

/-- The words come back from a following `DUMP` when `RESTORE` does not lose them and word 31 has no
more than the six bits of LZCR. -/
theorem view_restoreFile_iff (d : DumpWords) (f : RegFile) :
    (∀ i : Fin 64, view i (restoreFile d f) = d[i]) ↔
      Recoverable d ∧ (d[31].setWidth 6).setWidth 32 = d[31] := by
  have hsigned : ∀ p ∈ signedFields, view p.1 (restoreFile d f) = readSigned (lo d[p.1]) :=
    fun p hp => by rw [view_signedFields _ p hp, restoreFile_halfFields d f p (by simp [hp])]
  have hunsigned : ∀ p ∈ unsignedFields, view p.1 (restoreFile d f) = readUnsigned (lo d[p.1]) :=
    fun p hp => by rw [view_unsignedFields _ p hp, restoreFile_halfFields d f p (by simp [hp])]
  have h15 : view 15 (restoreFile d f) = d[14] := by
    rw [restoreFile_eq]
    exact hi_append_lo d[14]
  have h28 : view 28 (restoreFile d f) = colourView ⟨lo d[9], lo d[10], lo d[11]⟩ :=
    congrArg colourView (restoreFile_ir d f)
  have h29 : view 29 (restoreFile d f) = view 28 (restoreFile d f) := rfl
  have h31 : view 31 (restoreFile d f) = (d[31].setWidth 6).setWidth 32 :=
    congrArg (BitVec.setWidth 32) (restoreFile_lzcr d f)
  have h58 : view 58 (restoreFile d f) = readH config.hReadSignExtends (lo d[58]) :=
    congrArg (readH config.hReadSignExtends) (restoreFile_h d f)
  have h63 : view 63 (restoreFile d f) = flagView (flagStored d[63]) :=
    congrArg flagView (restoreFile_flag d f)
  constructor
  · intro hviews
    exact ⟨{
      mirror := (hviews 15).symm.trans h15
      signed := fun p hp => (hviews p.1).symm.trans (hsigned p hp)
      unsigned := fun p hp => (hviews p.1).symm.trans (hunsigned p hp)
      h := (hviews 58).symm.trans h58
      irgb := (hviews 28).symm.trans h28
      orgb := (hviews 29).symm.trans (h29.trans (hviews 28))
      flag := (hviews 63).symm.trans h63 }, h31.symm.trans (hviews 31)⟩
  · rintro ⟨hd, hlzcr⟩
    have hirgb := h28.trans hd.irgb.symm
    refine (forall_index_iff _).2 ⟨fun p hp => ?_, fun p hp => (hsigned p hp).trans
      (hd.signed p hp).symm, fun p hp => (hunsigned p hp).trans (hd.unsigned p hp).symm,
      fun p hp => ?_, fun p hp => ?_, h15.trans hd.mirror.symm, hirgb,
      hirgb.trans hd.orgb.symm, h31.trans hlzcr, h58.trans hd.h.symm, h63.trans hd.flag.symm⟩
    · obtain ⟨hlo, hhi⟩ := restoreFile_pairFields d f p hp
      rw [view_pairFields _ p hp, hlo, hhi, hi_append_lo]
    · rw [view_wordFields _ p hp, restoreFile_wordFields d f p hp]
    · rw [view_colourFields _ p hp, restoreFile_colourFields d f p hp, packColour_unpackColour]

/-- A word up to 32 fits in the six bits of LZCR. -/
theorem setWidth_six_of_le {w : Word} (hw : w.toNat ≤ 32) : (w.setWidth 6).setWidth 32 = w := by
  apply BitVec.eq_of_toNat_eq
  rw [BitVec.toNat_setWidth, BitVec.toNat_setWidth]
  omega

/-- Settles O27: field by field, and the views of the restored file against the words. -/
theorem restoreSetsEveryField : Obligations.RestoreSetsEveryField := by
  intro d
  refine ⟨restoreFile d .zero, fun s => ?_, restoreFile_pairFields d _,
    restoreFile_halfFields d _, restoreFile_wordFields d _, fun p hp => ?_, restoreFile_lzcr d _,
    fun p hp => ?_, ?_⟩
  · rw [step_given_restore, restoreFile_eq, restoreFile_eq]
  · rw [ofColour_iff, restoreFile_colourFields d _ p hp]
  · rw [← flagNumbers_position p hp, RegFile.flagSet, restoreFile_flag]
    exact flagHas_flagStored d[63] p.2
  · rw [view_restoreFile_iff, dump_wellFormed_iff, and_assoc]
    exact and_congr_right fun _ => and_iff_right_of_imp setWidth_six_of_le

end Sys2Proof.Machine

/-! # The conditions each instruction can leave (R250, R252, R253) -/

namespace Sys2Proof.Machine

open Claims

/-- Settles O7: a step and an instruction each answer a next state, and no fault can be made. -/
theorem nothingEverFails : Obligations.NothingEverFails := by
  refine ⟨⟨nofun⟩, fun s => ?_, fun i s => ?_⟩
  · obtain ⟨t, hstep, -⟩ := step_pending_tail s
    exact ⟨t, hstep⟩
  · obtain ⟨f, hexec⟩ := exec_cases i s
    exact ⟨_, hexec⟩

/-! The groups of FLAG bits the rules name, and the conditions in them -/

theorem wideCondition_mem {sums : Lane → List Int} {b : FlagBit} (h : wideCondition sums b) :
    b ∈ wideBits := by
  obtain ⟨l, ⟨rfl, -⟩ | ⟨rfl, -⟩⟩ := h
  · cases l <;> decide
  · cases l <;> decide

theorem irSat_mem (l : Lane) : irSat l ∈ irBits := by
  cases l <;> decide

theorem irCondition_mem {lm : Bool} {g : RegFile} {b : FlagBit} (h : irCondition lm g b) :
    b ∈ irBits := by
  obtain ⟨l, rfl, -⟩ := h
  exact irSat_mem l

theorem colourCondition_mem {g : RegFile} {b : FlagBit} (h : colourCondition g b) :
    b ∈ colourBits := by
  obtain ⟨rfl, -⟩ | ⟨rfl, -⟩ | ⟨rfl, -⟩ := h <;> decide

theorem mac0Condition_mem {v : Int} {b : FlagBit} (h : mac0Condition v b) :
    b ∈ [FlagBit.mac0Pos, .mac0Neg] := by
  obtain ⟨rfl, -⟩ | ⟨rfl, -⟩ := h <;> decide

theorem rotateCondition_mem {lm : Bool} {vec : Triple Half} {f g : RegFile} {b : FlagBit}
    (h : rotateCondition lm vec f g b) : b ∈ wideBits ++ irBits ++ screenBits := by
  obtain hwide | ⟨rfl, -⟩ | ⟨rfl, -⟩ | ⟨rfl, -⟩ | ⟨rfl, -⟩ := h
  · exact List.mem_append_left _ (List.mem_append_left _ (wideCondition_mem hwide))
  all_goals decide

theorem projectCondition_mem {last : Bool} {g : RegFile} {b : FlagBit}
    (h : projectCondition last g b) : b ∈ screenBits := by
  have hmac0 {v : Int} (hv : mac0Condition v b) : b ∈ screenBits :=
    (by decide : [FlagBit.mac0Pos, .mac0Neg] ⊆ screenBits) (mac0Condition_mem hv)
  obtain ⟨rfl, -⟩ | hx | hy | ⟨rfl, -⟩ | ⟨rfl, -⟩ | ⟨-, hd | ⟨rfl, -⟩⟩ := h
  exacts [by decide, hmac0 hx, hmac0 hy, by decide, by decide, hmac0 hd, by decide]

theorem vertexCondition_mem {lm last : Bool} {vec : Triple Half} {f g : RegFile} {b : FlagBit}
    (h : vertexCondition lm last vec f g b) : b ∈ wideBits ++ irBits ++ screenBits := by
  obtain hrotate | hproject := (vertexCondition_iff lm last vec f g b).1 h
  · exact rotateCondition_mem hrotate
  · exact List.mem_append_right _ (projectCondition_mem hproject)

/-! What an instruction leaves in FLAG -/

/-- Every condition `w` records is one of `bits`. -/
def FlagsIn (bits : List FlagBit) (w : Flags) : Prop := ∀ b, flagHas w b = true → b ∈ bits

theorem FlagsIn.or {bits : List FlagBit} {w u : Flags} (hw : FlagsIn bits w)
    (hu : FlagsIn bits u) : FlagsIn bits (w ||| u) := by
  intro b hb
  rw [flagHas_or, Bool.or_eq_true] at hb
  exact hb.elim (hw b) (hu b)

theorem FlagsIn.mono {bits more : List FlagBit} {w : Flags} (h : FlagsIn bits w)
    (hsub : bits ⊆ more) : FlagsIn more w :=
  fun b hb => hsub (h b hb)

theorem flagsIn_of_vertex {sf lm last : Bool} {vec : Triple Half} {f g : RegFile}
    (h : Vertex sf lm last vec f g) : FlagsIn (wideBits ++ irBits ++ screenBits) g.flag :=
  fun b hb => vertexCondition_mem ((h.flags b).1 hb)

/-- From every state `i` completes, and the conditions FLAG then holds are among `bits`. -/
def LeavesOnly (bits : List FlagBit) (i : Instr) : Prop :=
  ∀ s, ∃ t, exec i s = .next t ∧ FlagsIn bits t.file.flag

theorem LeavesOnly.flagsIn {bits : List FlagBit} {i : Instr} {s t : State}
    (h : LeavesOnly bits i) (hexec : exec i s = .next t) : FlagsIn bits t.file.flag := by
  obtain ⟨u, hu, hin⟩ := h s
  cases hu.symm.trans hexec
  exact hin

/-- One instruction's handler after another's: the conditions are the union of theirs (R253). -/
theorem LeavesOnly.sequence {first bits : List FlagBit} {i j k : Instr} (hi : LeavesOnly first i)
    (hsub : first ⊆ bits) (hj : LeavesOnly bits j)
    (hk : ∀ s, ∃ a b, exec i s = .next a ∧ exec j a = .next b ∧
      exec k s = .next { b with
        file := { b.file with flag := a.file.flag ||| b.file.flag } }) : LeavesOnly bits k := by
  intro s
  obtain ⟨a, b, ha, hb, hexec⟩ := hk s
  exact ⟨_, hexec, ((hi.flagsIn ha).mono hsub).or (hj.flagsIn hb)⟩

section

variable (sf lm : Bool)

/-! Projection and the geometry helpers -/

theorem leavesOnly_rtps : LeavesOnly (wideBits ++ irBits ++ screenBits) (.rtps sf lm) := by
  intro s
  obtain ⟨t, hexec, hvertex, -⟩ := rtpsResult sf lm s
  exact ⟨t, hexec, flagsIn_of_vertex hvertex⟩

theorem leavesOnly_rtpt : LeavesOnly (wideBits ++ irBits ++ screenBits) (.rtpt sf lm) := by
  intro s
  obtain ⟨t, a, b, c, hexec, ha, hb, hc, hfile, -⟩ := rtptResult sf lm s
  refine ⟨t, hexec, ?_⟩
  rw [hfile]
  exact ((flagsIn_of_vertex ha).or (flagsIn_of_vertex hb)).or (flagsIn_of_vertex hc)

theorem leavesOnly_nclip : LeavesOnly [.mac0Pos, .mac0Neg] .nclip :=
  fun s => ⟨_, exec_nclip s, fun b hb => mac0Condition_mem ((setMac0_cleared_flagSet _ _ b).1 hb)⟩

/-- AVSZ3 and AVSZ4 end alike (R201, R202). -/
theorem leavesOnly_of_storeAverage {i : Instr} {r : RegFile → Int}
    (hexec : ∀ s, exec i s = .next { s with file := storeAverage (r s.file) (cleared s.file) }) :
    LeavesOnly [.szOtzSat, .mac0Pos, .mac0Neg] i := by
  refine fun s => ⟨_, hexec s, fun b hb => ?_⟩
  obtain hmac0 | ⟨rfl, -⟩ := (storeAverage_cleared_flagSet _ _ b).1 hb
  · exact List.mem_cons_of_mem _ (mac0Condition_mem hmac0)
  · exact List.mem_cons_self

theorem leavesOnly_sqr : LeavesOnly irBits (.sqr sf lm) := by
  intro s
  obtain ⟨t, hexec, -, hflag, -⟩ := sqrResult sf lm s
  refine ⟨t, hexec, fun b hb => ?_⟩
  obtain ⟨l, rfl, -⟩ := (hflag b).1 hb
  exact irSat_mem l

theorem leavesOnly_op : LeavesOnly irBits (.op sf lm) := by
  intro s
  obtain ⟨t, a, d, hexec, -, -, -, -, -, -, hflag, -⟩ := outerProductResult sf lm s
  exact ⟨t, hexec, fun b hb => irCondition_mem ((hflag b).1 hb)⟩

theorem leavesOnly_mvmva (mx : MatrixSel) (v : VectorSel) (cv : TransSel) :
    LeavesOnly (wideBits ++ irBits) (.mvmva sf mx v cv lm) := by
  intro s
  by_cases hcv : cv = .fc
  · subst hcv
    obtain ⟨t, hexec, -, -, hflag, -⟩ := mvmvaFarColourResult sf mx v lm s
    refine ⟨t, hexec, fun b hb => List.mem_append.2 (((hflag b).1 hb).imp wideCondition_mem ?_)⟩
    rintro (⟨l, rfl, -⟩ | hir)
    exacts [irSat_mem l, irCondition_mem hir]
  · obtain ⟨t, hexec, -, -, hflag, -⟩ := mvmvaResult sf mx v cv lm s hcv
    exact ⟨t, hexec, fun b hb =>
      List.mem_append.2 (((hflag b).1 hb).imp wideCondition_mem irCondition_mem)⟩

/-! The instructions that push a colour -/

theorem mem_colourLane_iff {b : FlagBit} : b ∈ wideBits ++ irBits ++ colourBits ↔
    b ∈ wideBits ∨ b ∈ irBits ∨ b ∈ colourBits := by
  rw [List.mem_append, List.mem_append, or_assoc]

theorem leavesOnly_gpf : LeavesOnly (irBits ++ colourBits) (.gpf sf lm) := by
  intro s
  obtain ⟨t, hexec, -, -, -, hflag, -⟩ := gpfResult sf lm s
  exact ⟨t, hexec, fun b hb =>
    List.mem_append.2 (((hflag b).1 hb).imp irCondition_mem colourCondition_mem)⟩

theorem leavesOnly_gpl : LeavesOnly (wideBits ++ irBits ++ colourBits) (.gpl sf lm) := by
  intro s
  obtain ⟨t, hexec, -, -, -, hflag, -⟩ := gplResult sf lm s
  exact ⟨t, hexec, fun b hb => mem_colourLane_iff.2
    (((hflag b).1 hb).imp3 wideCondition_mem irCondition_mem colourCondition_mem)⟩

theorem leavesOnly_of_interpolates {sf lm : Bool} {i : Instr} {start : RegFile → Lane → Int}
    (h : ∀ s, interpolates sf lm start i s) : LeavesOnly (wideBits ++ irBits ++ colourBits) i := by
  intro s
  obtain ⟨t, hexec, -, -, -, hflag, -⟩ := h s
  refine ⟨t, hexec, fun b hb => mem_colourLane_iff.2 ?_⟩
  obtain hwide | ⟨l, rfl, -⟩ | hir | hcolour := (hflag b).1 hb
  · exact .inl (wideCondition_mem hwide)
  · exact .inr (.inl (irSat_mem l))
  · exact .inr (.inl (irCondition_mem hir))
  · exact .inr (.inr (colourCondition_mem hcolour))

theorem leavesOnly_dpcs : LeavesOnly (wideBits ++ irBits ++ colourBits) (.dpcs sf lm) :=
  leavesOnly_of_interpolates fun s => by
    obtain ⟨hdpcs, -, -⟩ := interpolationResults sf lm s
    exact hdpcs

theorem leavesOnly_dcpl : LeavesOnly (wideBits ++ irBits ++ colourBits) (.dcpl sf lm) :=
  leavesOnly_of_interpolates fun s => by
    obtain ⟨-, hdcpl, -⟩ := interpolationResults sf lm s
    exact hdcpl

theorem leavesOnly_intpl : LeavesOnly (wideBits ++ irBits ++ colourBits) (.intpl sf lm) :=
  leavesOnly_of_interpolates fun s => by
    obtain ⟨-, -, hintpl⟩ := interpolationResults sf lm s
    exact hintpl

theorem leavesOnly_dpct : LeavesOnly (wideBits ++ irBits ++ colourBits) (.dpct sf lm) := by
  intro s
  obtain ⟨a, b, c, t, hexec, ha, hb, hc, rfl⟩ := dpctIsThreeDepthCues sf lm s
  have hdpcs := leavesOnly_dpcs sf lm
  exact ⟨_, hexec, ((hdpcs.flagsIn ha).or (hdpcs.flagsIn hb)).or (hdpcs.flagsIn hc)⟩

theorem leavesOnly_cc : LeavesOnly (wideBits ++ irBits ++ colourBits) (.cc sf lm) := by
  intro s
  obtain ⟨a, t, ha, hexec, -, -, -, hflag, -⟩ := ccResult sf lm s
  refine ⟨t, hexec, fun b hb => ?_⟩
  obtain hlight | hir | hcolour := (hflag b).1 hb
  · exact List.mem_append_left _ ((leavesOnly_mvmva sf lm _ _ _).flagsIn ha b hlight)
  · exact mem_colourLane_iff.2 (.inr (.inl (irCondition_mem hir)))
  · exact List.mem_append_right _ (colourCondition_mem hcolour)

theorem leavesOnly_ncs : LeavesOnly (wideBits ++ irBits ++ colourBits) (.ncs sf lm) := by
  intro s
  obtain ⟨a, c, t, ha, hc, hexec, -, -, -, hflag, -⟩ := ncsResult sf lm s
  refine ⟨t, hexec, fun b hb => ?_⟩
  obtain hlight | hcolour | hpush := (hflag b).1 hb
  · exact List.mem_append_left _ ((leavesOnly_mvmva sf lm _ _ _).flagsIn ha b hlight)
  · exact List.mem_append_left _ ((leavesOnly_mvmva sf lm _ _ _).flagsIn hc b hcolour)
  · exact List.mem_append_right _ (colourCondition_mem hpush)

theorem leavesOnly_cdp : LeavesOnly (wideBits ++ irBits ++ colourBits) (.cdp sf lm) :=
  (leavesOnly_mvmva sf lm _ _ _).sequence (List.subset_append_left ..) (leavesOnly_dcpl sf lm)
    fun s => lightingStagesCompose sf lm s _ (.head _)

theorem leavesOnly_nccs : LeavesOnly (wideBits ++ irBits ++ colourBits) (.nccs sf lm) :=
  (leavesOnly_mvmva sf lm _ _ _).sequence (List.subset_append_left ..) (leavesOnly_cc sf lm)
    fun s => lightingStagesCompose sf lm s _ (.tail _ (.head _))

theorem leavesOnly_ncds : LeavesOnly (wideBits ++ irBits ++ colourBits) (.ncds sf lm) :=
  (leavesOnly_mvmva sf lm _ _ _).sequence (List.subset_append_left ..) (leavesOnly_cdp sf lm)
    fun s => lightingStagesCompose sf lm s _ (.tail _ (.tail _ (.head _)))

/-- A triple variant leaves the conditions its single variant can leave (R161, R163, R165). -/
theorem leavesOnly_triple {bits : List FlagBit} {triple single : Instr}
    (h : (triple, single) ∈ [(Instr.nct sf lm, Instr.ncs sf lm), (.ncct sf lm, .nccs sf lm),
      (.ncdt sf lm, .ncds sf lm)])
    (hsingle : LeavesOnly bits single) : LeavesOnly bits triple := by
  intro s
  obtain ⟨a, b, c, ha, hb, hc, hexec⟩ := tripleLightingIsThreeSingles sf lm s _ h
  exact ⟨_, hexec, ((hsingle.flagsIn ha).or (hsingle.flagsIn hb)).or (hsingle.flagsIn hc)⟩

theorem leavesOnly_nct : LeavesOnly (wideBits ++ irBits ++ colourBits) (.nct sf lm) :=
  leavesOnly_triple sf lm (.head _) (leavesOnly_ncs sf lm)

theorem leavesOnly_ncct : LeavesOnly (wideBits ++ irBits ++ colourBits) (.ncct sf lm) :=
  leavesOnly_triple sf lm (.tail _ (.head _)) (leavesOnly_nccs sf lm)

theorem leavesOnly_ncdt : LeavesOnly (wideBits ++ irBits ++ colourBits) (.ncdt sf lm) :=
  leavesOnly_triple sf lm (.tail _ (.tail _ (.head _))) (leavesOnly_ncds sf lm)

end

/-- The table of R252, row by row. -/
theorem leavesOnly_mayRaise {i : Instr} (hi : i ∉ reservedInstrs) : LeavesOnly (mayRaise i) i := by
  cases i
  case rtps => exact leavesOnly_rtps _ _
  case rtpt => exact leavesOnly_rtpt _ _
  case ncs => exact leavesOnly_ncs _ _
  case nct => exact leavesOnly_nct _ _
  case nccs => exact leavesOnly_nccs _ _
  case ncct => exact leavesOnly_ncct _ _
  case ncds => exact leavesOnly_ncds _ _
  case ncdt => exact leavesOnly_ncdt _ _
  case cc => exact leavesOnly_cc _ _
  case cdp => exact leavesOnly_cdp _ _
  case dpcs => exact leavesOnly_dpcs _ _
  case dpct => exact leavesOnly_dpct _ _
  case dcpl => exact leavesOnly_dcpl _ _
  case intpl => exact leavesOnly_intpl _ _
  case gpf => exact leavesOnly_gpf _ _
  case gpl => exact leavesOnly_gpl _ _
  case sqr => exact leavesOnly_sqr _ _
  case op => exact leavesOnly_op _ _
  case nclip => exact leavesOnly_nclip
  case avsz3 => exact leavesOnly_of_storeAverage exec_avsz3
  case avsz4 => exact leavesOnly_of_storeAverage exec_avsz4
  case mvmva => exact leavesOnly_mvmva _ _ _ _ _
  all_goals exact absurd (by decide) hi

/-- Settles O28: a reserved code changes nothing, and each defined instruction's exact conditions lie
in its row of R252. -/
theorem instructionsRaiseOnlyTheirFlags : Obligations.InstructionsRaiseOnlyTheirFlags := by
  intro i s
  by_cases hi : i ∈ reservedInstrs
  · exact ⟨s, exec_of_mem_reservedInstrs hi s, fun b hb => .inr ⟨hi, hb⟩⟩
  · obtain ⟨t, hexec, hin⟩ := leavesOnly_mayRaise hi s
    exact ⟨t, hexec, fun b hb => .inl (hin b hb)⟩

end Sys2Proof.Machine

/-! # Reset (R270, R271, R272, R274) -/

namespace Sys2Proof.Machine

open Claims

/-- Settles O24: the file of reset is the zero file, whose read views are evaluated index by
index. -/
theorem resetZeroesTheFile : Obligations.ResetZeroesTheFile := by
  have hviews : ∀ i, view i zeroFile = 0 := by decide
  have hcount : BitVec.ofNat 6 (signRun 0) = 32 := by decide
  exact ⟨rfl, fun s => step_reset s s.pending, hviews, _, step_given_wr 30 0 .reset, rfl, hcount⟩

/-- Settles O38: both of the pair are 0 at reset, and nothing waits. -/
theorem resetHasTheLeadingBitPair : Obligations.ResetHasTheLeadingBitPair :=
  ⟨.inr ⟨rfl, rfl⟩, nofun⟩

/-- With every input 0 the rotation stores 0 in fields that hold 0, and records nothing. -/
theorem rtpRotate_zero (sf lm : Bool) :
    rtpRotate config (zeroTriple 16) (shiftOf sf) lm .zero = .zero := by
  revert sf lm
  decide

/-- With `H` and the screen Z both 0 the divide overflows, and the saturated quotient is multiplied
by 0 everywhere (R274). -/
theorem rtpProject_zero :
    rtpProject config true .zero = { RegFile.zero with flag := FlagBit.divOvf.mask } := by
  decide

/-- `EXEC` of an instruction's minimal word runs the instruction. -/
theorem step_given_exec_encode (i : Instr) (s : State) :
    step (given (.exec (encode i)) s) = exec i { s with reply := none } := by
  rw [given, step_exec, decodeWord_encode]

/-- Settles O59: the rotation leaves the file zero, so the projection divides 0 by 0. -/
theorem rtpsFromResetOverflowsTheDivide : Obligations.RtpsFromResetOverflowsTheDivide := by
  intro sf lm
  have hfile : rtp config State.reset.file.v0 (shiftOf sf) lm true (cleared State.reset.file) =
      { RegFile.zero with flag := FlagBit.divOvf.mask } :=
    (congrArg (rtpProject config true) (rtpRotate_zero sf lm)).trans rtpProject_zero
  have hflag : flagView FlagBit.divOvf.mask = 0x80020000 := by decide
  refine ⟨_, (step_given_exec_encode _ _).trans (exec_rtps sf lm _), ?_⟩
  rw [hfile]
  exact ⟨rfl, rfl, hflag⟩

end Sys2Proof.Machine
